-- ==== Sys2Proof/Word.lean ====
section
/-!
DEFINITION. The word types of the block: everything it moves is a byte, a 16-bit register or a 12-bit window offset
(`00_scope.md` R9, R11; `20_memory.md` R50, R55).
-/

namespace Sys2Proof

/-- A byte: 8 bits, unsigned (R9). -/
abbrev Byte := BitVec 8

/-- A 16-bit register: CRC, RCV, IN_LEN, OUT_LEN (R56), and the width of a checksum (R7 CRC_WIDTH). -/
abbrev Half := BitVec 16

/-- A window offset, 12 bits: the window has 4096 byte locations (R50). -/
abbrev Offset := BitVec 12

/-- The command word CW: CW[15:8] = OP, CW[7:0] = IMM (R70). -/
abbrev CmdWord := BitVec 16

end Sys2Proof
end

