-- ==== Sys2Proof/Config.lean ====
section
/-!
DEFINITION. The fixed parameters of the block (`00_scope.md` R7) and the two values the spec leaves open
(`93_implementation_defined.md` U1, U2). A free value has no body: nothing can evaluate it, so a claim holds whatever it
is. BASE, the third open parameter (U6), is an argument of `Machine.windowOffset`, not a constant.
-/

namespace Sys2Proof.Config

/-- CRC_POLY (R7). -/
def crcPoly : Half := 0x8005

/-- CRC_INIT (R7). -/
def crcInit : Half := 0xFFFF

/-- CRC_XOROUT (R7). CRC_REFIN and CRC_REFOUT are false: bytes enter most significant bit first and the result is not
reflected (R100). -/
def crcXorOut : Half := 0x0000

/-- MARKER, the StartMarker (R7, R13). -/
def marker : Byte := 0x7F

/-- MAX_PAYLOAD: the Length field is one byte (R7). -/
def maxPayload : Nat := 255

/-- MIN_FRAME (R7). -/
def minFrame : Nat := 6

/-- RC_OK (R7). -/
def rcOk : Byte := 0xF0

/-- RC_CANNOT_PROCESS (R7). -/
def rcCannotProcess : Byte := 0xF5

/-- BUSY_SUBCODE (R7). -/
def busySubcode : Byte := 0x03

/-- IN_CAP (R7). -/
def inCap : Nat := 1024

/-- OUT_CAP (R7). -/
def outCap : Nat := 2048

/-- The number of byte locations of the register window (R7, R50). -/
def windowSize : Nat := 4096

/-- FREE VALUE (U1, R39; log entry 3). `unwrittenIn r i` is what a host read of IN[i] returns when nothing has written
IN[i] since RESET number `r`. It is fixed between two RESETs, since reading a location any number of times returns the
same value until something writes it (R59) and no command writes IN (R66). -/
opaque unwrittenIn : Nat → Nat → Byte

/-- FREE VALUE (U2, R40, R67; log entry 4). `staleOut e i` is what a read of OUT[i] returns in epoch `e` when OUT[i] is
stale, that is when OUT_LEN ≤ i, or nothing has written it since RESET. An epoch ends with each command and each RESET,
so reading again in between returns the same value (R59). -/
opaque staleOut : Nat → Nat → Byte

end Sys2Proof.Config
end

