-- ==== Sys2Proof/Syntax.lean ====
section
/-!
DEFINITION. The commands of the block (`30_encoding.md` R73, one constructor per row of `spec/opcode_table.json`), the
host's bus accesses (`00_scope.md` R11), and the statements of the host's assembler (R79, R80).
-/

namespace Sys2Proof

/-- SRC = IMM[0] of CLASSIFY (R72): 0 selects IN, 1 selects OUT. -/
inductive Src where
  | inBuf
  | outBuf
  deriving DecidableEq, Repr

/-- The nine commands of R73. A field is an operand taken from IMM; the IMM bits a command ignores are don't-care
(R72, R74) and are no field of it. -/
inductive Instr where
  /-- CKSUM (R102). -/
  | cksum
  /-- CKSUMB (R103). -/
  | cksumb
  /-- STUFF (R111). -/
  | stuff
  /-- PACK (R122); `sa` is the seqAddr byte, IMM[7:0] whole. -/
  | pack (sa : Byte)
  /-- PACKS (R123); `sa` is the seqAddr byte, IMM[7:0] whole. -/
  | packs (sa : Byte)
  /-- UNPACK (R125). -/
  | unpack
  /-- CLASSIFY (R153); `src` is IMM[0]. -/
  | classify (src : Src)
  /-- SEQ_NEXT (R141). -/
  | seqNext
  /-- SEQ_RETRY (R142). -/
  | seqRetry
  deriving DecidableEq, Repr

/-- One event on the host's side of the window (R11, R79, R180), at a window offset. The size of an access is explicit,
because an access of a size other than one byte is refused (R55): a read names it, a write carries that many bytes. -/
inductive BusOp where
  /-- `MemRead(off, size)`. -/
  | read (size : Nat) (off : Offset)
  /-- `MemWrite(off, data.length, data)`. -/
  | write (off : Offset) (data : List Byte)
  /-- The RESET event (R180). -/
  | reset
  deriving DecidableEq, Repr

/-- An access as the host issues it, at a host address (R51). -/
inductive HostAccess where
  | read (size : Nat) (addr : Nat)
  | write (addr : Nat) (data : List Byte)
  | reset
  deriving DecidableEq, Repr

/-- A statement of the host's assembler: the base forms of R79 and the pseudo-statements of R80. "Nothing else is a
pseudo-statement." -/
inductive Stmt where
  | wr (off : Offset) (v : Byte)
  | rd (off : Offset)
  | reset
  | cksum
  | cksumb
  | stuff
  | pack (s : Byte)
  | packs (s : Byte)
  | unpack
  | classify (src : Src)
  | seqNext
  | seqRetry
  | loadin (bytes : List Byte)
  | setseq (v : Byte)
  deriving DecidableEq, Repr

end Sys2Proof
end

