-- ==== Sys2Proof/WellFormed.lean ====
section
/-!
DEFINITION. What is well-formed. An operand of a command is a whole byte or one select bit and every value of it is
legal (`30_encoding.md` R72, R74: "No IMM value makes a listed command illegal"), so the types alone make every `Instr`
well-formed. What can be ill-formed is a host access of a size other than one byte (R55) and a LOADIN of more bytes than
IN holds (R39, R80).
-/

namespace Sys2Proof

/-- Every command is well-formed (R72, R74). -/
def Instr.wf : Instr → Bool
  | .cksum => true
  | .cksumb => true
  | .stuff => true
  | .pack _ => true
  | .packs _ => true
  | .unpack => true
  | .classify _ => true
  | .seqNext => true
  | .seqRetry => true

/-- "Every host access moves exactly one byte." (R55) -/
def BusOp.wf : BusOp → Bool
  | .read size _ => size == 1
  | .write _ data => data.length == 1
  | .reset => true

/-- LOADIN writes `0x400 + i` for `i = 0` to `k - 1` (R80), which is a location of IN only for `k ≤ 1024` (R39). -/
def Stmt.wf : Stmt → Bool
  | .wr _ _ => true
  | .rd _ => true
  | .reset => true
  | .cksum => true
  | .cksumb => true
  | .stuff => true
  | .pack _ => true
  | .packs _ => true
  | .unpack => true
  | .classify _ => true
  | .seqNext => true
  | .seqRetry => true
  | .loadin bytes => decide (bytes.length ≤ Config.inCap)
  | .setseq _ => true

end Sys2Proof
end

