-- ==== Sys2Proof/Decode.lean ====
section
/-!
DEFINITION. Decoding and encoding the command word CW (`30_encoding.md` R70, R72 to R74, R78). "The decoder tells the
command from OP alone."
-/

namespace Sys2Proof

/-- CW[15:8] = OP (R70). -/
def opField (cw : CmdWord) : Byte := cw.extractLsb' 8 8

/-- CW[7:0] = IMM (R70). -/
def immField (cw : CmdWord) : Byte := cw.extractLsb' 0 8

/-- `CW = {v, IMM}` (R71). -/
def cmdWord (op imm : Byte) : CmdWord := op ++ imm

/-- SRC = IMM[0]: 0 selects IN, 1 selects OUT (R72). -/
def srcField (imm : Byte) : Src := if imm.getLsbD 0 then .outBuf else .inBuf

/-- The bit SRC stands for (R72). -/
def Src.bit : Src → Byte
  | .inBuf => 0x00
  | .outBuf => 0x01

/-- Why a command word names no command. -/
inductive DecodeError where
  /-- OP = 0x00 or OP = 0x0A to 0xFF (R74). The step executes it as ILLEGAL_COMMAND, which the spec defines. -/
  | reservedOpcode (op : Byte)
  deriving DecidableEq, Repr

/-- The command a command word stands for: the opcode map of R73 with the operands of R72; every OP the map does not
list is reserved (R74). -/
def decode (cw : CmdWord) : Except DecodeError Instr :=
  match (opField cw).toNat with
  | 0x01 => .ok .cksum
  | 0x02 => .ok .cksumb
  | 0x03 => .ok .stuff
  | 0x04 => .ok (.pack (immField cw))
  | 0x05 => .ok (.packs (immField cw))
  | 0x06 => .ok .unpack
  | 0x07 => .ok (.classify (srcField (immField cw)))
  | 0x08 => .ok .seqNext
  | 0x09 => .ok .seqRetry
  | _ => .error (.reservedOpcode (opField cw))

/-- The OP of a command (R73). -/
def opcode : Instr → Byte
  | .cksum => 0x01
  | .cksumb => 0x02
  | .stuff => 0x03
  | .pack _ => 0x04
  | .packs _ => 0x05
  | .unpack => 0x06
  | .classify _ => 0x07
  | .seqNext => 0x08
  | .seqRetry => 0x09

/-- The IMM bits of a command that are an operand (R72): the `i` and `s` bits of the table's patterns. -/
def operandMask : Instr → Byte
  | .cksum => 0x00
  | .cksumb => 0x00
  | .stuff => 0x00
  | .pack _ => 0xFF
  | .packs _ => 0xFF
  | .unpack => 0x00
  | .classify _ => 0x01
  | .seqNext => 0x00
  | .seqRetry => 0x00

/-- The IMM byte of a command's encoding; a bit the command ignores is written 0. -/
def immediate : Instr → Byte
  | .cksum => 0x00
  | .cksumb => 0x00
  | .stuff => 0x00
  | .pack sa => sa
  | .packs sa => sa
  | .unpack => 0x00
  | .classify src => src.bit
  | .seqNext => 0x00
  | .seqRetry => 0x00

/-- The command word of a command, its ignored bits 0 (R70, R73). -/
def encode (i : Instr) : CmdWord := cmdWord (opcode i) (immediate i)

/-- The bits of the command word a command's decoding depends on: all of OP, and the operand bits of IMM. -/
def significantMask (i : Instr) : CmdWord := cmdWord 0xFF (operandMask i)

/-- A row of `spec/opcode_table.json`: the word is this command's exactly when `cw &&& mask = bits`. -/
structure Row where
  mnemonic : String
  bits : CmdWord
  mask : CmdWord
  deriving DecidableEq, Repr

/-- `spec/opcode_table.json`, row by row. -/
def opcodeTable : List Row :=
  [ ⟨"CKSUM", 0x0100, 0xFF00⟩,
    ⟨"CKSUMB", 0x0200, 0xFF00⟩,
    ⟨"STUFF", 0x0300, 0xFF00⟩,
    ⟨"PACK", 0x0400, 0xFF00⟩,
    ⟨"PACKS", 0x0500, 0xFF00⟩,
    ⟨"UNPACK", 0x0600, 0xFF00⟩,
    ⟨"CLASSIFY", 0x0700, 0xFF00⟩,
    ⟨"SEQ_NEXT", 0x0800, 0xFF00⟩,
    ⟨"SEQ_RETRY", 0x0900, 0xFF00⟩ ]

/-- The mnemonic of a command (R73). -/
def mnemonic : Instr → String
  | .cksum => "CKSUM"
  | .cksumb => "CKSUMB"
  | .stuff => "STUFF"
  | .pack _ => "PACK"
  | .packs _ => "PACKS"
  | .unpack => "UNPACK"
  | .classify _ => "CLASSIFY"
  | .seqNext => "SEQ_NEXT"
  | .seqRetry => "SEQ_RETRY"

/-- The instruction the decoder reads from a word numbered as the opcode table numbers it, `nbits` bits given, every bit
above them 0. A command word has 16 bits and no longer form exists (R70, R78). -/
def decodeTableWord (nbits w : Nat) : Option Instr :=
  if w % 2 ^ nbits < 65536 then
    match decode (BitVec.ofNat 16 (w % 2 ^ nbits)) with
    | .ok i => some i
    | .error _ => none
  else none

end Sys2Proof
end

