-- ==== Sys2Proof/Machine/State.lean ====
section
/-!
DEFINITION. The state of one instance of the block (`10_state.md` R20), its reset value (`70_reset_and_hazards.md`
R181), the error codes (`60_exceptions.md` R161), and the reasons a step stops.
-/

namespace Sys2Proof.Machine

/-- A buffer of bytes held as (index, byte) pairs; an index that is not listed holds no value (unwritten since RESET).
The canonical form is `Memory.wf` (`Machine/Ops.lean`). -/
abbrev Memory := List Host.Cell

/-- The error kinds of R161. ERR.CODE = 0x0 (NONE) is the absence of one. -/
inductive ErrCode where
  | frameTooShort
  | invalidFraming
  | checksumMismatch
  | emptyPayload
  | deviceBusy
  | cannotProcess
  | protocolError
  /-- Reserved for the external Transport Adapter; "No command of the block ever sets them." (R174) -/
  | transportWriteShort
  /-- Reserved for the external Transport Adapter; "No command of the block ever sets them." (R174) -/
  | transportError
  | payloadTooLong
  | noPriorSequence
  | illegalCommand
  | illegalLength
  deriving DecidableEq, Repr

/-- Why the machine stops in a fault. -/
inductive Fault where
  /-- UNINIT_INPUT (R68, U1): raised by CKSUM, CKSUMB, STUFF, PACK, PACKS, UNPACK and CLASSIFY with SRC = 0 when they
  consume a byte of IN that the host has not written since RESET. SAFE: the spec itself tells a model to stop here. -/
  | uninitInput
  deriving DecidableEq, Repr

/-- Why the machine refuses a step. -/
inductive Refusal where
  /-- A command whose meaning is not written yet. Raised by no arm of this model. SAFE. -/
  | notModelled (mnemonic : String)
  /-- A host access of a size other than one byte (R55, R193, U4), raised by the bus, never by a command. SAFE: the spec
  itself tells a model to refuse it. -/
  | accessSize (bytes : Nat)
  deriving DecidableEq, Repr

/-- The state of the block, and beside it the host's side of the window as plain data. -/
structure State where
  /-- IMM, the immediate operand of the next command (R23). -/
  imm : Byte
  /-- LASTOP, the last opcode written to CMD (R24). -/
  lastop : Byte
  /-- ERR; ERR[3:0] = CODE, ERR[7:4] reads 0 (R25). -/
  err : Byte
  /-- CTXV, the validity flags CRC_V, RCV_V, HDR_V, RC_V, SUB_V in bits 0 to 4; bits 7:5 read 0 (R26). -/
  ctxv : Byte
  /-- CRC, the checksum the last command computed (R27). -/
  crc : Half
  /-- RCV, the checksum the last UNPACK received (R28). -/
  rcv : Half
  /-- FBYTE, the first byte of the frame the last UNPACK examined (R29). -/
  fbyte : Byte
  /-- FLEN, the Length byte of the frame the last UNPACK examined (R30). -/
  flen : Byte
  /-- RCODE, the response code the last CLASSIFY examined (R31). -/
  rcode : Byte
  /-- RCLASS, the class of RCODE in bits 3:0; bits 7:4 read 0 (R32). -/
  rclass : Byte
  /-- SUBCODE, the second payload byte of a "cannot process" response (R33). -/
  subcode : Byte
  /-- IN_LEN (R34). -/
  inLen : Half
  /-- OUT_LEN (R35). -/
  outLen : Half
  /-- SEQADDR; bit 7 = SEQ, bits 6:0 = ADDR (R36). -/
  seqaddr : Byte
  /-- LASTSEQ, the byte SEQ_NEXT last issued (R37). -/
  lastseq : Byte
  /-- SEQSTAT; bit 0 = LAST_V, bits 7:1 read 0 (R38). -/
  seqstat : Byte
  /-- IN[0 ..< 1024] (R39), keyed by index. -/
  inBuf : Memory
  /-- OUT[0 ..< 2048] (R40), keyed by index. -/
  outBuf : Memory
  /-- MODEL'S OWN (log entry 1): the host's accesses not yet carried out, oldest first. -/
  bus : List BusOp
  /-- MODEL'S OWN (log entry 2): the bytes the host's reads have returned, oldest first. -/
  replies : List Byte
  /-- MODEL'S OWN (log entry 5): the number of RESET events so far, the index of `Config.unwrittenIn`. -/
  resets : Nat
  /-- MODEL'S OWN (log entry 5): the number of commands and RESET events so far, the index of `Config.staleOut`. -/
  epoch : Nat
  deriving DecidableEq, Repr

/-- The machine right after reset (R181): every register 0, every IN and OUT byte unwritten (R180). The model's own
fields start empty and at 0 (log entries 1, 2 and 5). -/
def State.reset : State where
  imm := 0x00
  lastop := 0x00
  err := 0x00
  ctxv := 0x00
  crc := 0x0000
  rcv := 0x0000
  fbyte := 0x00
  flen := 0x00
  rcode := 0x00
  rclass := 0x00
  subcode := 0x00
  inLen := 0x0000
  outLen := 0x0000
  seqaddr := 0x00
  lastseq := 0x00
  seqstat := 0x00
  inBuf := []
  outBuf := []
  bus := []
  replies := []
  resets := 0
  epoch := 0

/-- What a step or a command answers. -/
abbrev Result := Host.Outcome State Fault Refusal

end Sys2Proof.Machine
end

