-- ==== Sys2Proof/Machine/Flags.lean ====
section
/-!
DEFINITION. Every flag and status bit of the block (`10_state.md` R41): ERR.CODE (R25, R161), the CTXV bits (R26),
SEQSTAT.LAST_V (R38), and the SEQ and ADDR fields of SEQADDR (R36, R140). The block has no arithmetic condition codes
(R41).
-/

namespace Sys2Proof.Machine

/-- The ERR.CODE number of an error kind (R161). 0x0 is NONE; 0xE and 0xF are never produced. -/
def ErrCode.code : ErrCode → BitVec 4
  | .frameTooShort => 0x1
  | .invalidFraming => 0x2
  | .checksumMismatch => 0x3
  | .emptyPayload => 0x4
  | .deviceBusy => 0x5
  | .cannotProcess => 0x6
  | .protocolError => 0x7
  | .transportWriteShort => 0x8
  | .transportError => 0x9
  | .payloadTooLong => 0xA
  | .noPriorSequence => 0xB
  | .illegalCommand => 0xC
  | .illegalLength => 0xD

/-- ERR with CODE = the error's number; ERR[7:4] reads 0 (R25). -/
def ErrCode.toErr (e : ErrCode) : Byte := e.code.setWidth 8

/-- ERR.CODE = ERR[3:0] (R25). -/
def State.errCode (s : State) : BitVec 4 := s.err.extractLsb' 0 4

/-- CTXV bit 0, CRC_V: the last command wrote CRC (R26). -/
def crcV : Byte := 0x01

/-- CTXV bit 1, RCV_V: the last command wrote RCV (R26). -/
def rcvV : Byte := 0x02

/-- CTXV bit 2, HDR_V: the last command wrote FBYTE and FLEN (R26). -/
def hdrV : Byte := 0x04

/-- CTXV bit 3, RC_V: the last command wrote RCODE and RCLASS (R26). -/
def rcV : Byte := 0x08

/-- CTXV bit 4, SUB_V: the last command wrote SUBCODE (R26). -/
def subV : Byte := 0x10

/-- CTXV.SUB_V, which tells a sub-code from none (R154). -/
def State.subValid (s : State) : Bool := s.ctxv.getLsbD 4

/-- SEQSTAT[0] = LAST_V (R38). -/
def State.lastV (s : State) : Bool := s.seqstat.getLsbD 0

/-- SEQSTAT with LAST_V = 1; SEQSTAT[7:1] reads 0 (R38). -/
def lastVSet : Byte := 0x01

/-- SEQADDR.SEQ, bit 7 (R36). -/
def seqField (b : Byte) : BitVec 1 := b.extractLsb' 7 1

/-- SEQADDR.ADDR, bits 6:0 (R36). -/
def addrField (b : Byte) : BitVec 7 := b.extractLsb' 0 7

/-- `seq_byte = {SEQ, ADDR}` (R140). -/
def seqByte (seq : BitVec 1) (addr : BitVec 7) : Byte := seq ++ addr

/-- SEQADDR after `SEQ <- SEQ ^ 1` with ADDR unchanged (R141). -/
def toggleSeq (b : Byte) : Byte := seqByte (seqField b ^^^ 1) (addrField b)

end Sys2Proof.Machine
end

