-- ==== Sys2Proof/Machine/Ops.lean ====
section
/-!
DEFINITION. The named operations over the state: byte order (`20_memory.md` R56, R57), the buffers, the steps every
command begins with (`30_encoding.md` R75, R76), reporting an error (`60_exceptions.md` R160, the one shared operation
for it; the block has no traps and no return from one, R167), the result registers, RESET (`70_reset_and_hazards.md`
R180), and the window map (R52).
-/

namespace Sys2Proof.Machine

/-- Bits 7:0 of a 16-bit register, at its lower offset (R56). -/
def loByte (w : Half) : Byte := w.extractLsb' 0 8

/-- Bits 15:8 of a 16-bit register, at its higher offset (R56). -/
def hiByte (w : Half) : Byte := w.extractLsb' 8 8

/-- `{hi, lo}` (R9). -/
def joinBytes (hi lo : Byte) : Half := hi ++ lo

/-- The half-open slice `s[a ..< b]`, empty when `b ≤ a` (R10). -/
def slice (bs : List Byte) (a b : Nat) : List Byte := (bs.take b).drop a

/-! ### Buffers -/

/-- The byte at index `a`, or none where nothing is listed. -/
def Memory.read : Memory → Nat → Option Byte
  | [], _ => none
  | (k, v) :: m, a => if k = a then some v else Memory.read m a

/-- Write one byte, keeping the indices rising. -/
def Memory.write : Memory → Nat → Byte → Memory
  | [], a, b => [(a, b)]
  | (k, v) :: m, a, b =>
    if a < k then (a, b) :: (k, v) :: m
    else if k = a then (a, b) :: m
    else (k, v) :: Memory.write m a b

/-- The bytes of a sequence as cells at the indices `a`, `a + 1`, ... -/
def cellsFrom : Nat → List Byte → Memory
  | _, [] => []
  | a, b :: bs => (a, b) :: cellsFrom (a + 1) bs

/-- `OUT[0 ..< len(bs)] <- bs`; every byte at `len(bs)` and above stays (R40, R67). -/
def Memory.writeSeq (m : Memory) (bs : List Byte) : Memory :=
  cellsFrom 0 bs ++ m.filter (fun c => bs.length ≤ c.1)

/-- The `n` bytes from index `a`, in order (R57), or none if one of them holds no value. -/
def Memory.readSeq (m : Memory) (a : Nat) : Nat → Option (List Byte)
  | 0 => some []
  | n + 1 =>
    match Memory.read m a, Memory.readSeq m (a + 1) n with
    | some b, some bs => some (b :: bs)
    | _, _ => none

/-- The canonical form of a buffer of `cap` bytes: indices strictly rising and below `cap`. Every listed entry differs
from what an unlisted index reads as, which is no value. -/
abbrev Memory.wf (cap : Nat) (m : Memory) : Prop :=
  m.Pairwise (fun c d => c.1 < d.1) ∧ ∀ c ∈ m, c.1 < cap

/-! ### The steps of a command -/

/-- Steps 1 and 2 of every command: latch the opcode (`LASTOP <- op`, R75) and run the prologue, which clears every
per-command result and "does not touch IMM, IN, IN_LEN, OUT bytes, SEQADDR, LASTSEQ or LAST_V" (R76). A new epoch of
stale OUT bytes begins (log entry 5). -/
def beginCommand (op : Byte) (s : State) : State :=
  { s with
    lastop := op
    err := 0x00
    ctxv := 0x00
    crc := 0x0000
    rcv := 0x0000
    fbyte := 0x00
    flen := 0x00
    rcode := 0x00
    rclass := 0x00
    subcode := 0x00
    outLen := 0x0000
    epoch := s.epoch + 1 }

/-- The state `raise E()` leaves: ERR.CODE is E's number and every register written so far is kept (R160). -/
def State.setErr (e : ErrCode) (s : State) : State := { s with err := e.toErr }

/-- `raise E()`: record the error and end the command (R160). No later statement runs, OUT_LEN is still the prologue's
0, and nothing is trapped, stalled or retried. -/
def raise (e : ErrCode) (s : State) : Result := .next (s.setErr e)

/-- A command whose OP is reserved: prologue, then ILLEGAL_COMMAND; "It changes nothing else" (R74, R75 step 3). -/
def illegalCommand (op : Byte) (s : State) : Result := raise .illegalCommand (beginCommand op s)

/-! ### Result registers. A command sets a CTXV bit in the same statement that writes its register (R26). -/

/-- `CRC <- c;  CTXV.CRC_V <- 1` (R27). -/
def State.setCrc (c : Half) (s : State) : State := { s with crc := c, ctxv := s.ctxv ||| crcV }

/-- `RCV <- r;  CTXV.RCV_V <- 1` (R28). -/
def State.setRcv (r : Half) (s : State) : State := { s with rcv := r, ctxv := s.ctxv ||| rcvV }

/-- `FBYTE <- fb;  FLEN <- fl;  CTXV.HDR_V <- 1` (R29, R30). -/
def State.setHeader (fb fl : Byte) (s : State) : State :=
  { s with fbyte := fb, flen := fl, ctxv := s.ctxv ||| hdrV }

/-- `RCODE <- code;  RCLASS <- zext_8(cls);  CTXV.RC_V <- 1` (R31, R32, R153). -/
def State.setResponse (code : Byte) (cls : BitVec 4) (s : State) : State :=
  { s with rcode := code, rclass := cls.setWidth 8, ctxv := s.ctxv ||| rcV }

/-- `SUBCODE <- sub;  CTXV.SUB_V <- 1` (R33). -/
def State.setSubcode (sub : Byte) (s : State) : State :=
  { s with subcode := sub, ctxv := s.ctxv ||| subV }

/-- `OUT[0 ..< len(bs)] <- bs;  OUT_LEN <- len(bs)` (R35, R40). -/
def State.setOut (bs : List Byte) (s : State) : State :=
  { s with outBuf := s.outBuf.writeSeq bs, outLen := BitVec.ofNat 16 bs.length }

/-- `LASTSEQ <- b;  LAST_V <- 1;  SEQ <- SEQ ^ 1` (R141). -/
def State.advanceSeq (s : State) : State :=
  { s with lastseq := s.seqaddr, seqstat := lastVSet, seqaddr := toggleSeq s.seqaddr }

/-! ### RESET -/

/-- The RESET event: "every register to the reset value stated in its rule", every IN and OUT byte unwritten (R180). The
host's side of the window is not the block's: its pending accesses and the replies it has had stay. -/
def resetEvent (s : State) : State :=
  { State.reset with
    bus := s.bus
    replies := s.replies
    resets := s.resets + 1
    epoch := s.epoch + 1 }

/-! ### The window map -/

/-- What stands at a window offset (R52). -/
inductive Loc where
  | imm
  | cmd
  | err
  | ctxv
  | crcLo
  | crcHi
  | rcvLo
  | rcvHi
  | fbyte
  | flen
  | rcode
  | rclass
  | subcode
  | inLenLo
  | inLenHi
  | outLenLo
  | outLenHi
  | seqaddr
  | lastseq
  | seqstat
  | reserved
  | inByte (i : Nat)
  | outByte (i : Nat)
  deriving DecidableEq, Repr

/-- The registers at the bottom of the window; every other offset below 0x400 is reserved (R52). -/
def registerAt (a : Nat) : Loc :=
  match a with
  | 0x000 => .imm
  | 0x001 => .cmd
  | 0x002 => .err
  | 0x003 => .ctxv
  | 0x004 => .crcLo
  | 0x005 => .crcHi
  | 0x006 => .rcvLo
  | 0x007 => .rcvHi
  | 0x008 => .fbyte
  | 0x009 => .flen
  | 0x00A => .rcode
  | 0x00B => .rclass
  | 0x00C => .subcode
  | 0x00D => .reserved
  | 0x00E => .inLenLo
  | 0x00F => .inLenHi
  | 0x010 => .outLenLo
  | 0x011 => .outLenHi
  | 0x012 => .seqaddr
  | 0x013 => .lastseq
  | 0x014 => .seqstat
  | _ => .reserved

/-- The window map (R52): the registers and the reserved offsets, then IN, then OUT. -/
def locAt (off : Offset) : Loc :=
  if off.toNat < 0x400 then registerAt off.toNat
  else if off.toNat < 0x800 then .inByte (off.toNat - 0x400)
  else .outByte (off.toNat - 0x800)

/-- The offset a host address reaches, for a window placed at `base` (R51): `BASE + a` with `a < 4096` reaches offset
`a`; no other host address is the block's. -/
def windowOffset (base addr : Nat) : Option Offset :=
  if base ≤ addr ∧ addr < base + Config.windowSize then some (BitVec.ofNat 12 (addr - base)) else none

/-- A host access as it reaches the block whose window is at `base`, or none when it reaches no location of the window
(R51). DESIGN CHOICE (log entry 6): the first address alone decides. An access wider than one byte that starts below
`base` and runs into the window is dropped; one that starts inside the window, at `base + 4095` too, reaches the block
and is refused there (R55). -/
def busOpAt (base : Nat) : HostAccess → Option BusOp
  | .read size addr => (windowOffset base addr).map (BusOp.read size)
  | .write addr data => (windowOffset base addr).map (fun off => BusOp.write off data)
  | .reset => some .reset

/-- Put the host's accesses after the ones still pending (R61: they take effect in the order issued). -/
def State.submit (ops : List BusOp) (s : State) : State := { s with bus := s.bus ++ ops }

/-- The same for a host that uses host addresses: an access outside the window is not the block's (R51). -/
def State.submitAt (base : Nat) (accesses : List HostAccess) (s : State) : State :=
  s.submit (accesses.filterMap (busOpAt base))

end Sys2Proof.Machine
end

