-- ==== Sys2Proof/Machine/Operands.lean ====
section
/-!
DEFINITION. Every operand form of a command (`30_encoding.md` R72): the input sequence IN[0 ..< IN_LEN], the snapshot of
OUT[0 ..< OUT_LEN], and the checks that stand before them. (The sequence byte is SEQADDR, read whole; the seqAddr byte
and SRC are operands of the instruction itself.)
-/

namespace Sys2Proof.Machine

/-- `IN[0 ..< IN_LEN]` (R34, R72), or none when one of its bytes is unwritten since RESET (R39, R68). -/
def State.input (s : State) : Option (List Byte) := s.inBuf.readSeq 0 s.inLen.toNat

/-- The byte OUT[i] of a result. A location that holds none (which R40 rules out below OUT_LEN in every state a run
reaches) is a free value (U2). -/
def State.resultByte (s : State) (i : Nat) : Byte := (s.outBuf.read i).getD (Config.staleOut s.epoch i)

/-- The snapshot `S <- OUT[0 ..< OUT_LEN]` (R75 step 1). -/
def State.snapshot (s : State) : List Byte := (List.range s.outLen.toNat).map s.resultByte

/-- Step 4, the input length check of a command that uses IN (R77): "if IN_LEN > 1024: raise ILLEGAL_LENGTH()". -/
def checkInputLength (s : State) (body : Result) : Result :=
  if s.inLen.toNat > Config.inCap then raise .illegalLength s else body

/-- Read the whole input sequence in one step (R42); an unwritten byte among its bytes is the fault UNINIT_INPUT
(R68). -/
def consumeInput (s : State) (body : List Byte → Result) : Result :=
  match s.input with
  | some p => body p
  | none => .fault .uninitInput

/-- "if n > 255: raise PAYLOAD_TOO_LONG()", checked before any byte of IN is read (R122, R123). -/
def checkPayloadLength (s : State) (body : Result) : Result :=
  if s.inLen.toNat > Config.maxPayload then raise .payloadTooLong s else body

end Sys2Proof.Machine
end

