-- ==== Sys2Proof/Machine/Checksum.lean ====
section
/-!
DEFINITION. The Checksum-16 engine: CKSUM and CKSUMB (`40_checksum.md` R100 to R104).
-/

namespace Sys2Proof.Machine

/-- One of the eight shift steps of R100, cut to 16 bits at the shift (R104). -/
def crcShift (c : Half) : Half := if c.getLsbD 15 then (c <<< 1) ^^^ Config.crcPoly else c <<< 1

/-- `n` shift steps. -/
def crcShifts : Nat → Half → Half
  | 0, c => c
  | n + 1, c => crcShifts n (crcShift c)

/-- One byte of R100: XOR it into the top 8 bits, then eight shift steps, most significant bit first (log entry 8). -/
def crcByte (c : Half) (b : Byte) : Half := crcShifts 8 (c ^^^ (b.setWidth 16 <<< 8))

/-- `crc16(s)` (R100). -/
def crc16 (bs : List Byte) : Half := bs.foldl crcByte Config.crcInit ^^^ Config.crcXorOut

/-- The bytes of a checksum, low byte first. -/
def crcBytes (c : Half) : List Byte := [loByte c, hiByte c]

/-- `cksum_bytes(s)` (R101). -/
def cksumBytes (bs : List Byte) : List Byte := crcBytes (crc16 bs)

/-- CKSUM (R102). -/
def execCksum (s : State) : Result :=
  let s1 := beginCommand 0x01 s
  checkInputLength s1 (consumeInput s1 fun p => .next (s1.setCrc (crc16 p)))

/-- CKSUMB (R103). -/
def execCksumb (s : State) : Result :=
  let s1 := beginCommand 0x02 s
  checkInputLength s1 (consumeInput s1 fun p => .next ((s1.setCrc (crc16 p)).setOut (cksumBytes p)))

end Sys2Proof.Machine
end

