-- ==== Sys2Proof/Machine/Classifier.lean ====
section
/-!
DEFINITION. The response-code decoder and classifier: CLASSIFY (`44_classifier.md` R150 to R154).
-/

namespace Sys2Proof.Machine

/-- A row of the response-code catalog (R150). -/
structure CatalogRow where
  code : Byte
  name : String
  cls : BitVec 4
  deriving DecidableEq, Repr

/-- "These eight codes are the whole catalog the block decodes" (R150). -/
def catalog : List CatalogRow :=
  [ ⟨0xF0, "OK", 0x0⟩,
    ⟨0xF2, "command-unknown", 0x1⟩,
    ⟨0xF3, "wrong-params", 0x2⟩,
    ⟨0xF4, "param-out-of-range", 0x3⟩,
    ⟨0xF5, "cannot-process", 0x4⟩,
    ⟨0xF6, "software-error", 0x5⟩,
    ⟨0xF8, "fail", 0x6⟩,
    ⟨0xFA, "key-not-set", 0x7⟩ ]

/-- The class of every byte outside the catalog (R150). -/
def noClass : BitVec 4 := 0xF

/-- The class of a code by table lookup. -/
def classIn : List CatalogRow → Byte → BitVec 4
  | [], _ => noClass
  | row :: rows, code => if row.code = code then row.cls else classIn rows code

/-- `rclass(code)`, "a pure table lookup" (R151). -/
def rclass (code : Byte) : BitVec 4 := classIn catalog code

/-- The outcome of `classify` (R152, R154). -/
inductive ClassifyOutcome where
  | emptyPayload
  | success (result : List Byte)
  | deviceBusy
  | cannotProcess (subcode : Option Byte)
  | protocolError (code : Byte)
  deriving DecidableEq, Repr

/-- `classify(q)` (R152). A payload [0xF5] has no sub-code, and nothing is indexed past its end (D17). -/
def classify : List Byte → ClassifyOutcome
  | [] => .emptyPayload
  | code :: rest =>
    if code = Config.rcOk then .success rest
    else if code = Config.rcCannotProcess then
      match rest with
      | [] => .cannotProcess none
      | sub :: _ => if sub = Config.busySubcode then .deviceBusy else .cannotProcess (some sub)
    else .protocolError code

/-- How the host reads the outcome after CLASSIFY (R154), none for an ERR.CODE that CLASSIFY gives no outcome for
(ILLEGAL_LENGTH). -/
def readOutcome (s : State) : Option ClassifyOutcome :=
  match s.errCode.toNat with
  | 0x0 => some (.success s.snapshot)
  | 0x4 => some .emptyPayload
  | 0x5 => some .deviceBusy
  | 0x6 => some (.cannotProcess (if s.subValid then some s.subcode else none))
  | 0x7 => some (.protocolError s.rcode)
  | _ => none

/-- The body of CLASSIFY for the payload `q` (R153). -/
def classifyBody (q : List Byte) (s1 : State) : Result :=
  match q with
  | [] => raise .emptyPayload s1
  | code :: rest =>
    let s2 := s1.setResponse code (rclass code)
    if code = Config.rcOk then .next (s2.setOut rest)
    else if code = Config.rcCannotProcess then
      match rest with
      | [] => raise .cannotProcess s2
      | sub :: _ =>
        let s3 := s2.setSubcode sub
        if sub = Config.busySubcode then raise .deviceBusy s3 else raise .cannotProcess s3
    else raise .protocolError s2

/-- CLASSIFY (R153). With SRC = 1 the payload is the snapshot of OUT taken before the prologue (R75), and IN and IN_LEN
are not used (R77). -/
def execClassify (src : Src) (s : State) : Result :=
  let s1 := beginCommand 0x07 s
  match src with
  | .inBuf => checkInputLength s1 (consumeInput s1 fun q => classifyBody q s1)
  | .outBuf => classifyBody s.snapshot s1

end Sys2Proof.Machine
end

