-- ==== Sys2Proof/Machine/Stuffer.lean ====
section
/-!
DEFINITION. The byte stuffer: STUFF (`41_stuffer.md` R110 to R112).
-/

namespace Sys2Proof.Machine

/-- `stuff(s)`: each MARKER byte becomes two, every other byte is copied, in order (R110). -/
def stuff : List Byte → List Byte
  | [] => []
  | b :: bs => if b = Config.marker then b :: Config.marker :: stuff bs else b :: stuff bs

/-- STUFF (R111). It stuffs the region it is given as a whole. -/
def execStuff (s : State) : Result :=
  let s1 := beginCommand 0x03 s
  checkInputLength s1 (consumeInput s1 fun p => .next (s1.setOut (stuff p)))

end Sys2Proof.Machine
end

