-- ==== Sys2Proof/Machine/Framer.lean ====
section
/-!
DEFINITION. The packet framer: PACK, PACKS and UNPACK (`42_framer.md` R120 to R128).
-/

namespace Sys2Proof.Machine

/-- The core of a frame, `[sa, len(p)[7:0]] ++ p` (R121): what the checksum covers. -/
def frameCore (p : List Byte) (sa : Byte) : List Byte := sa :: BitVec.ofNat 8 p.length :: p

/-- `pack_frame(p, sa)` (R121), for `len(p) ≤ 255`. -/
def packFrame (p : List Byte) (sa : Byte) : List Byte :=
  Config.marker :: (frameCore p sa ++ cksumBytes (frameCore p sa))

/-- The stuffed wire form (R123): every byte after the start marker is stuffed, the checksum being that of the unstuffed
core. -/
def packFrameStuffed (p : List Byte) (sa : Byte) : List Byte :=
  Config.marker :: stuff (frameCore p sa ++ cksumBytes (frameCore p sa))

/-- The part of PACK and PACKS the two share (R122, R123): the checks, the checksum of the unstuffed core, and the frame
that `build` makes. -/
def packWith (build : List Byte → List Byte) (sa : Byte) (s1 : State) : Result :=
  checkInputLength s1 (checkPayloadLength s1 (consumeInput s1 fun p =>
    .next ((s1.setCrc (crc16 (frameCore p sa))).setOut (build p))))

/-- PACK (R122). -/
def execPack (sa : Byte) (s : State) : Result := packWith (fun p => packFrame p sa) sa (beginCommand 0x04 s)

/-- PACKS (R123). -/
def execPacks (sa : Byte) (s : State) : Result := packWith (fun p => packFrameStuffed p sa) sa (beginCommand 0x05 s)

/-- `{f[n-1], f[n-2]}`, the last two bytes of a frame read little-endian (R125). -/
def receivedChecksum (f : List Byte) : Half :=
  joinBytes (f.getD (f.length - 1) 0) (f.getD (f.length - 2) 0)

/-- The checksum a frame should carry, `crc16(f[1 ..< n-2])` (R124, R125). -/
def expectedChecksum (f : List Byte) : Half := crc16 (slice f 1 (f.length - 2))

/-- The payload of a frame, `f[3 ..< n-2]`, whatever its Length byte says (R125, R126). -/
def framePayload (f : List Byte) : List Byte := slice f 3 (f.length - 2)

/-- `unpack_frame(f)` (R124): the states CHK_LEN, CHK_MARK, CHK_CRC and EMIT, the first failing test deciding the error.
It neither checks the Length byte (R126) nor removes stuffing (R127). -/
def unpackFrame (f : List Byte) : Except ErrCode (List Byte) :=
  if f.length < Config.minFrame then .error .frameTooShort
  else if f.getD 0 0 ≠ Config.marker then .error .invalidFraming
  else if slice f (f.length - 2) f.length ≠ cksumBytes (slice f 1 (f.length - 2)) then .error .checksumMismatch
  else .ok (framePayload f)

/-- The body of UNPACK once the frame `f` is read (R125): header, marker check, the two checksums, their comparison, the
payload. -/
def unpackBody (f : List Byte) (s1 : State) : Result :=
  let s2 := s1.setHeader (f.getD 0 0) (f.getD 2 0)
  if f.getD 0 0 ≠ Config.marker then raise .invalidFraming s2
  else
    let s3 := (s2.setCrc (expectedChecksum f)).setRcv (receivedChecksum f)
    if receivedChecksum f ≠ expectedChecksum f then raise .checksumMismatch s3
    else .next (s3.setOut (framePayload f))

/-- UNPACK (R125). FRAME_TOO_SHORT is decided by IN_LEN before any byte of IN is read. -/
def execUnpack (s : State) : Result :=
  let s1 := beginCommand 0x06 s
  checkInputLength s1
    (if s1.inLen.toNat < Config.minFrame then raise .frameTooShort s1
     else consumeInput s1 fun f => unpackBody f s1)

end Sys2Proof.Machine
end

