-- ==== Sys2Proof/Machine/Sequence.lean ====
section
/-!
DEFINITION. The sequence-toggle register: SEQ_NEXT and SEQ_RETRY (`43_sequence.md` R140 to R145). The host's write to
SEQADDR (R143) is an access, in `Machine/Bus.lean`.
-/

namespace Sys2Proof.Machine

/-- SEQ_NEXT (R141): issue the current sequence byte, remember it, toggle the flag. It never fails. -/
def execSeqNext (s : State) : Result :=
  let s1 := beginCommand 0x08 s
  .next ((s1.setOut [seqByte (seqField s1.seqaddr) (addrField s1.seqaddr)]).advanceSeq)

/-- SEQ_RETRY (R142): issue the last byte of SEQ_NEXT again, without toggling. -/
def execSeqRetry (s : State) : Result :=
  let s1 := beginCommand 0x09 s
  if s1.lastV then .next (s1.setOut [s1.lastseq]) else raise .noPriorSequence s1

end Sys2Proof.Machine
end

