-- ==== Sys2Proof/Machine/Dispatch.lean ====
section
/-!
DEFINITION. One arm per command of `30_encoding.md` R73.
-/

namespace Sys2Proof.Machine

def exec (i : Instr) (s : State) : Host.Outcome State Fault Refusal :=
  match i with
  | .cksum => Sys2Proof.Machine.execCksum s
  | .cksumb => Sys2Proof.Machine.execCksumb s
  | .stuff => Sys2Proof.Machine.execStuff s
  | .pack sa => Sys2Proof.Machine.execPack sa s
  | .packs sa => Sys2Proof.Machine.execPacks sa s
  | .unpack => Sys2Proof.Machine.execUnpack s
  | .classify src => Sys2Proof.Machine.execClassify src s
  | .seqNext => Sys2Proof.Machine.execSeqNext s
  | .seqRetry => Sys2Proof.Machine.execSeqRetry s

end Sys2Proof.Machine
end

