-- ==== Sys2Proof/Machine/Bus.lean ====
section
/-!
DEFINITION. What one access of the host does (`20_memory.md` R52 to R55, R59; `30_encoding.md` R71; `43_sequence.md`
R143).
-/

namespace Sys2Proof.Machine

/-- "The write to CMD is the whole issue protocol" (R71): the command word `{v, IMM}` is decoded and run; a reserved
opcode runs as ILLEGAL_COMMAND (R24, R74). -/
def issue (v : Byte) (s : State) : Result :=
  match decode (cmdWord v s.imm) with
  | .ok i => exec i s
  | .error (.reservedOpcode op) => illegalCommand op s

/-- A host read of OUT[i]: the result byte below OUT_LEN, any value at OUT_LEN and above (R40, R67, U2). -/
def State.outRead (s : State) (i : Nat) : Byte :=
  if i < s.outLen.toNat then s.resultByte i else Config.staleOut s.epoch i

/-- A host read of IN[i]: the byte written, any value where nothing has been written since RESET (R39, U1). -/
def State.inRead (s : State) (i : Nat) : Byte := (s.inBuf.read i).getD (Config.unwrittenIn s.resets i)

/-- The "read" column of R52. No read has a side effect (R59). -/
def readByte (l : Loc) (s : State) : Byte :=
  match l with
  | .imm => s.imm
  | .cmd => s.lastop
  | .err => s.err
  | .ctxv => s.ctxv
  | .crcLo => loByte s.crc
  | .crcHi => hiByte s.crc
  | .rcvLo => loByte s.rcv
  | .rcvHi => hiByte s.rcv
  | .fbyte => s.fbyte
  | .flen => s.flen
  | .rcode => s.rcode
  | .rclass => s.rclass
  | .subcode => s.subcode
  | .inLenLo => loByte s.inLen
  | .inLenHi => hiByte s.inLen
  | .outLenLo => loByte s.outLen
  | .outLenHi => hiByte s.outLen
  | .seqaddr => s.seqaddr
  | .lastseq => s.lastseq
  | .seqstat => s.seqstat
  | .reserved => 0x00
  | .inByte i => s.inRead i
  | .outByte i => s.outRead i

/-- The "write" column of R52: a read-only or reserved location ignores the write (R53, R54), and SEQADDR takes
`SEQ <- v[7]`, `ADDR <- v[6:0]` (R143). -/
def writeByte (l : Loc) (v : Byte) (s : State) : Result :=
  match l with
  | .imm => .next { s with imm := v }
  | .cmd => issue v s
  | .inLenLo => .next { s with inLen := joinBytes (hiByte s.inLen) v }
  | .inLenHi => .next { s with inLen := joinBytes v (loByte s.inLen) }
  | .seqaddr => .next { s with seqaddr := seqByte (seqField v) (addrField v) }
  | .inByte i => .next { s with inBuf := s.inBuf.write i v }
  | .err => .next s
  | .ctxv => .next s
  | .crcLo => .next s
  | .crcHi => .next s
  | .rcvLo => .next s
  | .rcvHi => .next s
  | .fbyte => .next s
  | .flen => .next s
  | .rcode => .next s
  | .rclass => .next s
  | .subcode => .next s
  | .outLenLo => .next s
  | .outLenHi => .next s
  | .lastseq => .next s
  | .seqstat => .next s
  | .reserved => .next s
  | .outByte _ => .next s

/-- `MemRead(off, size)` (R55): the host gets the byte, and the block does not change (R59). -/
def hostRead (size : Nat) (off : Offset) (s : State) : Result :=
  if size = 1 then .next { s with replies := s.replies ++ [readByte (locAt off) s] } else .refused (.accessSize size)

/-- `MemWrite(off, size, v)` (R55). -/
def hostWrite (off : Offset) (data : List Byte) (s : State) : Result :=
  match data with
  | [v] => writeByte (locAt off) v s
  | _ => .refused (.accessSize data.length)

/-- One event on the host's side of the window: an access, or RESET (R180). -/
def busStep (op : BusOp) (s : State) : Result :=
  match op with
  | .read size off => hostRead size off s
  | .write off data => hostWrite off data s
  | .reset => .next (resetEvent s)

end Sys2Proof.Machine
end

