-- ==== Sys2Proof/Machine/Step.lean ====
section
/-!
DEFINITION. One step: the host's next access, complete before the one after it (`20_memory.md` R60, R61). With no access
pending the block is idle and holds its state (`10_state.md` R22, `60_exceptions.md` R173, `70_reset_and_hazards.md`
R182).
-/

namespace Sys2Proof.Machine

/-- Carry out the oldest pending access (log entry 1). -/
def step (s : State) : Host.Outcome State Fault Refusal :=
  match s.bus with
  | [] => .next s
  | op :: rest => busStep op { s with bus := rest }

/-- The state in which the very next step issues the command word `w`: IMM holds CW[7:0] and the next access is the
write of CW[15:8] to CMD (R70, R71). -/
def State.withFetchWord (s : State) (nbits w : Nat) : State :=
  { s with
    imm := BitVec.ofNat 8 (w % 2 ^ nbits)
    bus := .write 0x001 [BitVec.ofNat 8 (w % 2 ^ nbits / 256)] :: s.bus }

end Sys2Proof.Machine
end

