-- ==== Sys2Proof/Machine/Assembler.lean ====
section
/-!
DEFINITION. The host's assembler: what each statement expands to (`30_encoding.md` R79, R80). "The encoding of a program
is its list of bus operations."
-/

namespace Sys2Proof.Machine

/-- `MemWrite(off, 1, v)`, the statement `wr OFF, V` (R79). -/
def wr (off : Nat) (v : Byte) : BusOp := .write (BitVec.ofNat 12 off) [v]

/-- The writes of LOADIN to `0x400 + i`, in order (R80). -/
def loadBytes : Nat → List Byte → List BusOp
  | _, [] => []
  | i, b :: bs => wr (0x400 + i) b :: loadBytes (i + 1) bs

/-- `LOADIN b0, ..., b(k-1)`: the bytes in order, then IN_LEN_LO, then IN_LEN_HI (R80). -/
def loadin (bytes : List Byte) : List BusOp :=
  loadBytes 0 bytes ++
    [ wr 0x00E (loByte (BitVec.ofNat 16 bytes.length)), wr 0x00F (hiByte (BitVec.ofNat 16 bytes.length)) ]

/-- The expansion of a statement to bus operations (R79, R80). -/
def expand : Stmt → List BusOp
  | .wr off v => [.write off [v]]
  | .rd off => [.read 1 off]
  | .reset => [.reset]
  | .cksum => [wr 0x001 0x01]
  | .cksumb => [wr 0x001 0x02]
  | .stuff => [wr 0x001 0x03]
  | .pack v => [wr 0x000 v, wr 0x001 0x04]
  | .packs v => [wr 0x000 v, wr 0x001 0x05]
  | .unpack => [wr 0x001 0x06]
  | .classify src => [wr 0x000 src.bit, wr 0x001 0x07]
  | .seqNext => [wr 0x001 0x08]
  | .seqRetry => [wr 0x001 0x09]
  | .loadin bytes => loadin bytes
  | .setseq v => [wr 0x012 v]

/-- The bus operations of a host program (R79). -/
def assemble (program : List Stmt) : List BusOp := program.flatMap expand

end Sys2Proof.Machine
end

