-- ==== Sys2Proof/Safety.lean ====
section
/-!
DEFINITION. What counts as a safe run, and the invariants of the block. "A run is faulted when any command in it consumed
an IN byte left unwritten since RESET (UNINIT_INPUT ...), or used an access size other than 1 (refused)"
(`70_reset_and_hazards.md` R193).
-/

namespace Sys2Proof.Machine

/-- The "uses IN" column of R73. -/
def usesIn : Instr → Bool
  | .cksum => true
  | .cksumb => true
  | .stuff => true
  | .pack _ => true
  | .packs _ => true
  | .unpack => true
  | .classify .inBuf => true
  | .classify .outBuf => false
  | .seqNext => false
  | .seqRetry => false

/-- The lengths of the input at which a command reaches the point where it reads IN (R77, R122, R123, R125). -/
def consumesAt (i : Instr) (n : Nat) : Bool :=
  match i with
  | .cksum => decide (n ≤ 1024)
  | .cksumb => decide (n ≤ 1024)
  | .stuff => decide (n ≤ 1024)
  | .pack _ => decide (n ≤ 255)
  | .packs _ => decide (n ≤ 255)
  | .unpack => decide (6 ≤ n ∧ n ≤ 1024)
  | .classify .inBuf => decide (n ≤ 1024)
  | .classify .outBuf => false
  | .seqNext => false
  | .seqRetry => false

/-- The host has written every byte of IN[0 ..< IN_LEN] since RESET, its duty before a command that uses IN (R183). -/
def Written (s : State) : Prop := ∀ a, a < s.inLen.toNat → (s.inBuf.read a).isSome

/-- A safe step: the machine goes on. -/
def SafeStep (s : State) : Prop := ∃ t, step s = .next t

/-- `k` steps, one access each, stopping at the first fault or refusal. -/
def steps : Nat → State → Result
  | 0, s => .next s
  | k + 1, s =>
    match step s with
    | .next t => steps k t
    | .fault f => .fault f
    | .refused r => .refused r

/-- A safe run of `k` accesses: no fault and no refusal (R193). -/
def SafeRun (k : Nat) (s : State) : Prop := ∃ t, steps k s = .next t

/-- The ERR.CODE values a command can leave (R162). -/
def possibleErrors : Instr → List (BitVec 4)
  | .cksum => [0x0, 0xD]
  | .cksumb => [0x0, 0xD]
  | .stuff => [0x0, 0xD]
  | .pack _ => [0x0, 0xD, 0xA]
  | .packs _ => [0x0, 0xD, 0xA]
  | .unpack => [0x0, 0xD, 0x1, 0x2, 0x3]
  | .classify .inBuf => [0x0, 0xD, 0x4, 0x5, 0x6, 0x7]
  | .classify .outBuf => [0x0, 0x4, 0x5, 0x6, 0x7]
  | .seqNext => [0x0]
  | .seqRetry => [0x0, 0xB]

/-- What holds of the state in every run. -/
structure Inv (s : State) : Prop where
  /-- IN is 1024 bytes in canonical form (R39). -/
  inWf : s.inBuf.wf 1024
  /-- OUT is 2048 bytes in canonical form (R40). -/
  outWf : s.outBuf.wf 2048
  /-- "Its value never exceeds 2048" (R35). -/
  outLenBound : s.outLen.toNat ≤ 2048
  /-- OUT is valid at the indices below OUT_LEN (R40). -/
  outWritten : ∀ a, a < s.outLen.toNat → (s.outBuf.read a).isSome
  /-- ERR[7:4] reads 0 (R25). -/
  errReserved : s.err.toNat < 16
  /-- The codes 0x8, 0x9, 0xE and 0xF are never produced (R161, R174). -/
  errProduced : s.err ≠ 0x08 ∧ s.err ≠ 0x09 ∧ s.err ≠ 0x0E ∧ s.err ≠ 0x0F
  /-- CTXV[7:5] reads 0 (R26). -/
  ctxvReserved : s.ctxv.toNat < 32
  /-- RCLASS[7:4] reads 0 and the values 0x8 to 0xE never occur (R32). -/
  rclassRange : s.rclass.toNat < 8 ∨ s.rclass = 0x0F
  /-- SEQSTAT[7:1] reads 0 (R38). -/
  seqstatReserved : s.seqstat = 0x00 ∨ s.seqstat = 0x01
  /-- LASTSEQ has its reset value until SEQ_NEXT has executed (R37, R38). -/
  lastseqUnissued : s.seqstat = 0x00 → s.lastseq = 0x00

/-- The error context (R26, R160, R163): a context register whose CTXV bit is 0 holds the prologue's 0, an error leaves
OUT_LEN = 0, and CTXV and the context are those of the error's row. -/
structure ErrorContext (s : State) : Prop where
  crcClear : s.ctxv.getLsbD 0 = false → s.crc = 0x0000
  rcvClear : s.ctxv.getLsbD 1 = false → s.rcv = 0x0000
  headerClear : s.ctxv.getLsbD 2 = false → s.fbyte = 0x00 ∧ s.flen = 0x00
  responseClear : s.ctxv.getLsbD 3 = false → s.rcode = 0x00 ∧ s.rclass = 0x00
  subcodeClear : s.ctxv.getLsbD 4 = false → s.subcode = 0x00
  noOutput : s.err ≠ 0x00 → s.outLen = 0x0000
  noError : s.err = 0x00 → s.ctxv = 0x00 ∨ s.ctxv = 0x01 ∨ s.ctxv = 0x07 ∨ s.ctxv = 0x08
  frameTooShort : s.err = 0x01 → s.ctxv = 0x00
  invalidFraming : s.err = 0x02 → s.ctxv = 0x04 ∧ s.fbyte ≠ 0x7F
  checksumMismatch : s.err = 0x03 → s.ctxv = 0x07 ∧ s.fbyte = 0x7F ∧ s.crc ≠ s.rcv
  emptyPayload : s.err = 0x04 → s.ctxv = 0x00
  deviceBusy : s.err = 0x05 → s.ctxv = 0x18 ∧ s.rcode = 0xF5 ∧ s.rclass = 0x04 ∧ s.subcode = 0x03
  cannotProcess : s.err = 0x06 →
    (s.ctxv = 0x18 ∧ s.subcode ≠ 0x03 ∨ s.ctxv = 0x08) ∧ s.rcode = 0xF5 ∧ s.rclass = 0x04
  protocolError : s.err = 0x07 →
    s.ctxv = 0x08 ∧ s.rcode ≠ 0xF0 ∧ s.rcode ≠ 0xF5 ∧ s.rclass = (rclass s.rcode).setWidth 8
  otherErrors : s.err = 0x0A ∨ s.err = 0x0B ∨ s.err = 0x0C ∨ s.err = 0x0D → s.ctxv = 0x00

/-- `k` commands `i` in a row, each on the state the one before it leaves. -/
def execTimes (i : Instr) : Nat → State → Result
  | 0, s => .next s
  | k + 1, s =>
    match exec i s with
    | .next t => execTimes i k t
    | .fault f => .fault f
    | .refused r => .refused r

end Sys2Proof.Machine
end

