-- ==== Sys2Proof/Certificates/Slice0/Obligations.lean ====
section
/-!
DEFINITION. The statements for the provers. A statement about a command's result writes its next state as a record over
the state before, so that it says both what the command changes and that it changes nothing else; only OUT, a long
buffer, is described through reading one byte of it.
-/

namespace Sys2Proof.Claims

open Sys2Proof.Machine

/-- `p` is the input sequence IN[0 ..< IN_LEN], every byte of it written (R10, R34, R72). -/
def InputIs (s : State) (p : List Byte) : Prop :=
  p.length = s.inLen.toNat ∧ ∀ i (h : i < p.length), s.inBuf.read i = some p[i]

/-- `q` is OUT[0 ..< OUT_LEN], the sequence CLASSIFY with SRC = 1 snapshots (R40, R75). -/
def OutputHolds (s : State) (q : List Byte) : Prop :=
  q.length = s.outLen.toNat ∧ ∀ i (h : i < q.length), s.outBuf.read i = some q[i]

/-- Between `s` and `t` exactly `OUT[0 ..< len(bs)] <- bs;  OUT_LEN <- len(bs)` happened to OUT: every byte at `len(bs)`
or above reads as before (R40, R67). -/
def WritesOut (s t : State) (bs : List Byte) : Prop :=
  t.outLen.toNat = bs.length ∧
  (∀ i (h : i < bs.length), t.outBuf.read i = some bs[i]) ∧
  (∀ a, bs.length ≤ a → t.outBuf.read a = s.outBuf.read a)

/-- The state after steps 1 and 2 of a command of opcode `op`: LASTOP latched (R75), every per-command result cleared
(R76). (`epoch` is the model's own, log entry 5.) -/
def afterPrologue (op : Byte) (s : State) : State :=
  { s with
    lastop := op, err := 0x00, ctxv := 0x00, crc := 0x0000, rcv := 0x0000, fbyte := 0x00, flen := 0x00,
    rcode := 0x00, rclass := 0x00, subcode := 0x00, outLen := 0x0000, epoch := s.epoch + 1 }

/-- What CLASSIFY of the payload `q` makes of `s` (R153): one line per branch of its pseudocode. -/
def ClassifyEffect (q : List Byte) (s t : State) : Prop :=
  (q = [] → t = { afterPrologue 0x07 s with err := 0x04 }) ∧
  (∀ rest, q = 0xF0 :: rest →
    WritesOut s t rest ∧
    t = { afterPrologue 0x07 s with
      rcode := 0xF0, rclass := 0x00, ctxv := 0x08, outLen := t.outLen, outBuf := t.outBuf }) ∧
  (q = [0xF5] → t = { afterPrologue 0x07 s with err := 0x06, rcode := 0xF5, rclass := 0x04, ctxv := 0x08 }) ∧
  (∀ rest, q = 0xF5 :: 0x03 :: rest →
    t = { afterPrologue 0x07 s with err := 0x05, rcode := 0xF5, rclass := 0x04, subcode := 0x03, ctxv := 0x18 }) ∧
  (∀ sub rest, sub ≠ 0x03 → q = 0xF5 :: sub :: rest →
    t = { afterPrologue 0x07 s with err := 0x06, rcode := 0xF5, rclass := 0x04, subcode := sub, ctxv := 0x18 }) ∧
  (∀ code rest, code ≠ 0xF0 → code ≠ 0xF5 → q = code :: rest →
    t = { afterPrologue 0x07 s with
      err := 0x07, rcode := code, rclass := (rclass code).setWidth 8, ctxv := 0x08 })

/-- The read-only and reserved offsets of the window map (R52, R54). -/
def ignoresWrites (off : Offset) : Bool :=
  decide ((0x002 ≤ off.toNat ∧ off.toNat ≤ 0x00D) ∨ off.toNat = 0x010 ∨ off.toNat = 0x011 ∨
    (0x013 ≤ off.toNat ∧ off.toNat < 0x400) ∨ 0x800 ≤ off.toNat)

/-- The reserved offsets: 0x00D and 0x015 to 0x3FF (R52). -/
def reservedOffset (off : Offset) : Bool :=
  decide (off.toNat = 0x00D ∨ (0x015 ≤ off.toNat ∧ off.toNat < 0x400))

/-- A reserved opcode: 0x00 and 0x0A to 0xFF (R74). -/
def reservedOpcode (op : Byte) : Bool := decide (op = 0x00 ∨ 0x0A ≤ op.toNat)

/-- Two states a command `i` cannot tell apart: they agree on its operands (R72): IN below IN_LEN, the sequence
registers, and, for CLASSIFY with SRC = 1, OUT below OUT_LEN. Result registers, stale OUT bytes and IN bytes at IN_LEN
and above may differ. -/
structure SameOperands (i : Instr) (s1 s2 : State) : Prop where
  inLen : s1.inLen = s2.inLen
  input : ∀ a, a < s1.inLen.toNat → s1.inBuf.read a = s2.inBuf.read a
  seqaddr : s1.seqaddr = s2.seqaddr
  lastseq : s1.lastseq = s2.lastseq
  seqstat : s1.seqstat = s2.seqstat
  outLen : i = .classify .outBuf → s1.outLen = s2.outLen
  output : i = .classify .outBuf → ∀ a, a < s1.outLen.toNat → ∃ b, s1.outBuf.read a = some b ∧ s2.outBuf.read a = some b

/-- Two states with the same results of their last command: every result register, the sequence registers, and OUT below
OUT_LEN. -/
structure SameResults (t1 t2 : State) : Prop where
  lastop : t1.lastop = t2.lastop
  err : t1.err = t2.err
  ctxv : t1.ctxv = t2.ctxv
  crc : t1.crc = t2.crc
  rcv : t1.rcv = t2.rcv
  fbyte : t1.fbyte = t2.fbyte
  flen : t1.flen = t2.flen
  rcode : t1.rcode = t2.rcode
  rclass : t1.rclass = t2.rclass
  subcode : t1.subcode = t2.subcode
  seqaddr : t1.seqaddr = t2.seqaddr
  lastseq : t1.lastseq = t2.lastseq
  seqstat : t1.seqstat = t2.seqstat
  outLen : t1.outLen = t2.outLen
  output : ∀ a, a < t1.outLen.toNat → t1.outBuf.read a = t2.outBuf.read a

end Sys2Proof.Claims

open Sys2Proof Sys2Proof.Machine Sys2Proof.Claims

/-! ### Encoding (R70 to R74) -/

/-- Every command's encoding decodes to it, with every operand at every value. -/
def Obligations.DecodeEncodeAgree : Prop :=
  ∀ i : Instr, i.wf = true → decode (encode i) = .ok i

/-- A command word decodes to `i` exactly when the opcode table's row of `i` matches it and its operand bits are those
of `i`: no bit is dropped, no other word decodes to `i`, and the don't-care bits do not matter. -/
def Obligations.DecodeIsExactlyTheOpcodeTable : Prop :=
  ∀ (cw : CmdWord) (i : Instr),
    decode cw = .ok i ↔
      (∃ row ∈ opcodeTable, row.mnemonic = mnemonic i ∧ cw &&& row.mask = row.bits) ∧
      immField cw &&& operandMask i = immediate i

/-- Words written out bit by bit from the patterns of R73 decode to their commands. -/
def Obligations.SampleWordsDecode : Prop :=
  decode 0b0000000110100101 = .ok .cksum ∧
  decode 0b0000001111111111 = .ok .stuff ∧
  decode 0b0000010010000000 = .ok (.pack 0b10000000) ∧
  decode 0b0000011000000000 = .ok .unpack ∧
  decode 0b0000011100000001 = .ok (.classify .outBuf) ∧
  decode 0b0000011111111110 = .ok (.classify .inBuf) ∧
  decode 0b0000100000000000 = .ok .seqNext ∧
  decode 0b0000101000000000 = .error (.reservedOpcode 0b00001010)

/-! ### The step and the window (R50 to R68, R71, R74, R180, R193) -/

/-- A step whose next access writes an opcode to CMD runs the decoded command on the state with that access taken off;
the command word is the byte written and IMM. -/
def Obligations.StepRunsTheIssuedCommand : Prop :=
  ∀ (s : State) (v : Byte) (rest : List BusOp) (i : Instr),
    s.bus = .write 0x001 [v] :: rest → decode (v ++ s.imm) = .ok i →
      step s = exec i { s with bus := rest }

/-- A reserved opcode raises ILLEGAL_COMMAND after the prologue and changes nothing else, and an opcode that is not
reserved is a command whatever IMM holds (R74). -/
def Obligations.ReservedOpcodeIsIllegalCommand : Prop :=
  (∀ (s : State) (v : Byte) (rest : List BusOp),
    s.bus = .write 0x001 [v] :: rest → reservedOpcode v = true →
      step s = .next { afterPrologue v { s with bus := rest } with err := 0x0C }) ∧
  (∀ op imm : Byte, reservedOpcode op = false → ∃ i, decode (op ++ imm) = .ok i)

/-- With no access pending the block holds its state (R22, R173; that idling is a step is the model's choice, log
entry 1). -/
def Obligations.IdleBlockHoldsItsState : Prop :=
  ∀ s : State, s.bus = [] → step s = .next s

/-- A step is refused exactly when the next access is of a size other than one byte (R55). -/
def Obligations.StepRefusesExactlyOtherSizes : Prop :=
  ∀ s : State, (∃ r, step s = .refused r) ↔ ∃ op rest, s.bus = op :: rest ∧ op.wf = false

/-- A step faults exactly when it issues a command that reads IN while a byte below IN_LEN is unwritten (R68, R193). -/
def Obligations.StepFaultsExactlyOnUnwrittenInput : Prop :=
  ∀ s : State, (∃ f, step s = .fault f) ↔
    ∃ v rest i, s.bus = .write 0x001 [v] :: rest ∧ decode (v ++ s.imm) = .ok i ∧
      consumesAt i s.inLen.toNat = true ∧ ¬ Written s

/-- A command that reads IN with an unwritten byte below IN_LEN is the fault UNINIT_INPUT (R68). That such a command,
CLASSIFY and UNPACK too, consumes every byte of IN below IN_LEN is the model's reading (log entry 3, DEDUCED from R42 and
R75); the lengths at which it does are those of R77, R122, R123 and R125. -/
def Obligations.UnwrittenInputFaults : Prop :=
  ∀ (i : Instr) (s : State) (a : Nat),
    consumesAt i s.inLen.toNat = true → a < s.inLen.toNat → s.inBuf.read a = none →
      exec i s = .fault .uninitInput

/-- Every command completes when the host has written the input bytes below IN_LEN (R60, R183): no command traps, waits
or stops. -/
def Obligations.EveryCommandCompletes : Prop :=
  ∀ (i : Instr) (s : State), (usesIn i = true → Written s) → ∃ t, exec i s = .next t

/-- A host read returns the value of the window map and changes nothing in the block (R52, R56, R59). -/
def Obligations.HostReadReturnsTheMappedByte : Prop :=
  ∀ (s : State) (off : Offset) (rest : List BusOp), s.bus = .read 1 off :: rest →
    ∃ v : Byte, step s = .next { s with bus := rest, replies := s.replies ++ [v] } ∧
      (off = 0x000 → v = s.imm) ∧
      (off = 0x001 → v = s.lastop) ∧
      (off = 0x002 → v = s.err) ∧
      (off = 0x003 → v = s.ctxv) ∧
      (off = 0x004 → v = s.crc.extractLsb' 0 8) ∧
      (off = 0x005 → v = s.crc.extractLsb' 8 8) ∧
      (off = 0x006 → v = s.rcv.extractLsb' 0 8) ∧
      (off = 0x007 → v = s.rcv.extractLsb' 8 8) ∧
      (off = 0x008 → v = s.fbyte) ∧
      (off = 0x009 → v = s.flen) ∧
      (off = 0x00A → v = s.rcode) ∧
      (off = 0x00B → v = s.rclass) ∧
      (off = 0x00C → v = s.subcode) ∧
      (off = 0x00E → v = s.inLen.extractLsb' 0 8) ∧
      (off = 0x00F → v = s.inLen.extractLsb' 8 8) ∧
      (off = 0x010 → v = s.outLen.extractLsb' 0 8) ∧
      (off = 0x011 → v = s.outLen.extractLsb' 8 8) ∧
      (off = 0x012 → v = s.seqaddr) ∧
      (off = 0x013 → v = s.lastseq) ∧
      (off = 0x014 → v = s.seqstat) ∧
      (reservedOffset off = true → v = 0x00) ∧
      (∀ b, 0x400 ≤ off.toNat → off.toNat < 0x800 → s.inBuf.read (off.toNat - 0x400) = some b → v = b) ∧
      (∀ b, 0x800 ≤ off.toNat → off.toNat - 0x800 < s.outLen.toNat →
        s.outBuf.read (off.toNat - 0x800) = some b → v = b)

/-- Two reads of one location with nothing in between return the same byte, a location of unspecified content included
(R59). -/
def Obligations.RepeatedReadsAgree : Prop :=
  ∀ (s : State) (off : Offset) (rest : List BusOp), s.bus = .read 1 off :: .read 1 off :: rest →
    ∃ v : Byte, steps 2 s = .next { s with bus := rest, replies := s.replies ++ [v, v] }

/-- Writes to read-only and reserved locations change nothing, and reserved locations read 0x00 (R53, R54). -/
def Obligations.ReadOnlyAndReservedWritesAreIgnored : Prop :=
  (∀ (s : State) (off : Offset) (v : Byte) (rest : List BusOp),
    s.bus = .write off [v] :: rest → ignoresWrites off = true → step s = .next { s with bus := rest }) ∧
  (∀ (s : State) (off : Offset) (rest : List BusOp),
    s.bus = .read 1 off :: rest → reservedOffset off = true →
      step s = .next { s with bus := rest, replies := s.replies ++ [0x00] })

/-- Writes to IMM, IN_LEN_LO, IN_LEN_HI and IN store their byte and do nothing else (R23, R34, R39, R59). -/
def Obligations.HostWritesStoreTheirByte : Prop :=
  ∀ (s : State) (off : Offset) (v : Byte) (rest : List BusOp), s.bus = .write off [v] :: rest →
    (off = 0x000 → step s = .next { s with bus := rest, imm := v }) ∧
    (off = 0x00E → step s = .next { s with bus := rest, inLen := s.inLen.extractLsb' 8 8 ++ v }) ∧
    (off = 0x00F → step s = .next { s with bus := rest, inLen := v ++ s.inLen.extractLsb' 0 8 }) ∧
    (0x400 ≤ off.toNat → off.toNat < 0x800 →
      ∃ t, step s = .next t ∧ t = { s with bus := rest, inBuf := t.inBuf } ∧
        t.inBuf.read (off.toNat - 0x400) = some v ∧
        ∀ a, a ≠ off.toNat - 0x400 → t.inBuf.read a = s.inBuf.read a)

/-- A write to SEQADDR sets SEQ and ADDR and leaves every other register unchanged; it runs no prologue (R143). -/
def Obligations.SeqaddrWriteSetsFlagAndAddress : Prop :=
  ∀ (s : State) (v : Byte) (rest : List BusOp), s.bus = .write 0x012 [v] :: rest →
    ∃ t, step s = .next t ∧ t = { s with bus := rest, seqaddr := t.seqaddr } ∧
      t.seqaddr.extractLsb' 7 1 = v.extractLsb' 7 1 ∧ t.seqaddr.extractLsb' 0 7 = v.extractLsb' 0 7

/-- The reset state (R181, and R180 for the RESET event and for the unwritten bytes of IN and OUT): the state after
reset, and the state a RESET event leaves whatever came before. The host's side (`bus`, `replies`) and the two counters
are the model's own (log entries 1, 2 and 5), and that RESET leaves the host's side as it is is the model's reading (log
entry 9, DEDUCED). -/
def Obligations.ResetStateIsAsListed : Prop :=
  (State.reset.imm = 0x00 ∧ State.reset.lastop = 0x00 ∧ State.reset.err = 0x00 ∧ State.reset.ctxv = 0x00 ∧
    State.reset.crc = 0x0000 ∧ State.reset.rcv = 0x0000 ∧ State.reset.fbyte = 0x00 ∧ State.reset.flen = 0x00 ∧
    State.reset.rcode = 0x00 ∧ State.reset.rclass = 0x00 ∧ State.reset.subcode = 0x00 ∧
    State.reset.inLen = 0x0000 ∧ State.reset.outLen = 0x0000 ∧ State.reset.seqaddr = 0x00 ∧
    State.reset.lastseq = 0x00 ∧ State.reset.seqstat = 0x00 ∧
    ∀ a, State.reset.inBuf.read a = none ∧ State.reset.outBuf.read a = none) ∧
  (∀ (s : State) (rest : List BusOp), s.bus = .reset :: rest →
    step s = .next
      { State.reset with bus := rest, replies := s.replies, resets := s.resets + 1, epoch := s.epoch + 1 })

/-- The window sits at BASE (R51): host address BASE + a reaches offset a for a < 4096, and no other host address is the
block's. -/
def Obligations.WindowSitsAtBase : Prop :=
  (∀ base a : Nat, a < 4096 → windowOffset base (base + a) = some (BitVec.ofNat 12 a)) ∧
  (∀ base addr : Nat, addr < base ∨ base + 4096 ≤ addr → windowOffset base addr = none)

/-! ### Checksum engine (R100 to R104) -/

/-- CKSUM, whole (R102). -/
def Obligations.CksumComputesTheChecksum : Prop :=
  (∀ imm : Byte, decode (0x01#8 ++ imm) = .ok .cksum) ∧
  (∀ (s : State) (p : List Byte), p.length ≤ 1024 → InputIs s p →
    exec .cksum s = .next { afterPrologue 0x01 s with crc := crc16 p, ctxv := 0x01 }) ∧
  (∀ s : State, 1024 < s.inLen.toNat → exec .cksum s = .next { afterPrologue 0x01 s with err := 0x0D }) ∧
  crc16 [] = 0xFFFF ∧ crc16 [0x00, 0x01, 0x21] = 0x08C6

/-- CKSUMB, whole (R103). -/
def Obligations.CksumbEmitsTheChecksumLowByteFirst : Prop :=
  (∀ imm : Byte, decode (0x02#8 ++ imm) = .ok .cksumb) ∧
  (∀ (s : State) (p : List Byte), p.length ≤ 1024 → InputIs s p →
    ∃ t, exec .cksumb s = .next t ∧
      t = { afterPrologue 0x02 s with crc := crc16 p, ctxv := 0x01, outLen := t.outLen, outBuf := t.outBuf } ∧
      WritesOut s t [(crc16 p).extractLsb' 0 8, (crc16 p).extractLsb' 8 8] ∧
      cksumBytes p = [(crc16 p).extractLsb' 0 8, (crc16 p).extractLsb' 8 8]) ∧
  (∀ s : State, 1024 < s.inLen.toNat → exec .cksumb s = .next { afterPrologue 0x02 s with err := 0x0D }) ∧
  cksumBytes [] = [0xFF, 0xFF] ∧ cksumBytes [0x00, 0x01, 0x21] = [0xC6, 0x08]

/-- The checksum is affine over XOR: there is no carry (R104). -/
def Obligations.ChecksumIsCarryLess : Prop :=
  ∀ xs ys : List Byte, xs.length = ys.length →
    crc16 (List.zipWith (· ^^^ ·) xs ys) = crc16 xs ^^^ crc16 ys ^^^ crc16 (List.replicate xs.length 0x00)

/-- Two sequences that differ in exactly one byte have different checksums (from the algorithm of R100). -/
def Obligations.ChecksumSeesAnySingleByteChange : Prop :=
  ∀ (xs ys : List Byte) (a b : Byte), a ≠ b → crc16 (xs ++ a :: ys) ≠ crc16 (xs ++ b :: ys)

/-! ### Byte stuffer (R110 to R112) -/

/-- `stuff` doubles each MARKER byte, copies every other byte and keeps the order (R110). -/
def Obligations.StuffDoublesEachMarker : Prop :=
  stuff [] = [] ∧ stuff [0x7F] = [0x7F, 0x7F] ∧ (∀ b : Byte, b ≠ 0x7F → stuff [b] = [b]) ∧
  ∀ xs ys : List Byte, stuff (xs ++ ys) = stuff xs ++ stuff ys

/-- The length law of stuffing (R112). -/
def Obligations.StuffLengthLaw : Prop :=
  ∀ bs : List Byte,
    (stuff bs).length = bs.length + bs.count 0x7F ∧
    bs.length ≤ (stuff bs).length ∧ (stuff bs).length ≤ 2 * bs.length ∧
    ((stuff bs).length = bs.length ↔ 0x7F ∉ bs) ∧
    ((stuff bs).length = 2 * bs.length ↔ ∀ b ∈ bs, b = 0x7F)

/-- Stuffing loses nothing: it is injective (R112). -/
def Obligations.StuffIsInjective : Prop :=
  ∀ xs ys : List Byte, stuff xs = stuff ys → xs = ys

/-- STUFF, whole (R111). -/
def Obligations.StuffWritesTheStuffedInput : Prop :=
  (∀ imm : Byte, decode (0x03#8 ++ imm) = .ok .stuff) ∧
  (∀ (s : State) (p : List Byte), p.length ≤ 1024 → InputIs s p →
    ∃ t, exec .stuff s = .next t ∧ t = { afterPrologue 0x03 s with outLen := t.outLen, outBuf := t.outBuf } ∧
      WritesOut s t (stuff p)) ∧
  (∀ s : State, 1024 < s.inLen.toNat → exec .stuff s = .next { afterPrologue 0x03 s with err := 0x0D }) ∧
  stuff (List.replicate 1024 0x7F) = List.replicate 2048 0x7F ∧
  stuff [0x00, 0x01, 0x7F, 0xA9] = [0x00, 0x01, 0x7F, 0x7F, 0xA9]

/-! ### Packet framer (R120 to R128) -/

/-- PACK, whole (R122): the frame 0x7F | SEQADDR | LEN | PAYLOAD | CRC_LO | CRC_HI. -/
def Obligations.PackFramesThePayload : Prop :=
  (∀ imm : Byte, decode (0x04#8 ++ imm) = .ok (.pack imm)) ∧
  (∀ (s : State) (sa : Byte) (p : List Byte), p.length ≤ 255 → InputIs s p →
    ∃ t, exec (.pack sa) s = .next t ∧
      t = { afterPrologue 0x04 s with
        crc := crc16 (sa :: BitVec.ofNat 8 p.length :: p), ctxv := 0x01, outLen := t.outLen, outBuf := t.outBuf } ∧
      WritesOut s t
        ([0x7F, sa, BitVec.ofNat 8 p.length] ++ p ++ [t.crc.extractLsb' 0 8, t.crc.extractLsb' 8 8])) ∧
  (∀ (s : State) (sa : Byte), 1024 < s.inLen.toNat →
    exec (.pack sa) s = .next { afterPrologue 0x04 s with err := 0x0D }) ∧
  (∀ (s : State) (sa : Byte), 255 < s.inLen.toNat → s.inLen.toNat ≤ 1024 →
    exec (.pack sa) s = .next { afterPrologue 0x04 s with err := 0x0A }) ∧
  packFrame [] 0x00 = [0x7F, 0x00, 0x00, 0x0D, 0x80] ∧
  (∀ sa : Byte, unpackFrame (packFrame [] sa) = .error .frameTooShort) ∧
  packFrame [0x7F] 0x00 = [0x7F, 0x00, 0x01, 0x7F, 0x01, 0x89] ∧
  packFrame [0x21] 0x00 = [0x7F, 0x00, 0x01, 0x21, 0xC6, 0x08] ∧
  (∀ p : List Byte, ∀ sa : Byte, ∃ c : Half,
    packFrame p sa = [0x7F, sa, BitVec.ofNat 8 p.length] ++ p ++ [c.extractLsb' 0 8, c.extractLsb' 8 8] ∧
    c = crc16 (sa :: BitVec.ofNat 8 p.length :: p))

/-- PACKS, whole (R123): every byte after the start marker stuffed, the checksum over the unstuffed core. -/
def Obligations.PacksStuffsAfterTheMarker : Prop :=
  (∀ imm : Byte, decode (0x05#8 ++ imm) = .ok (.packs imm)) ∧
  (∀ (s : State) (sa : Byte) (p : List Byte), p.length ≤ 255 → InputIs s p →
    ∃ t, exec (.packs sa) s = .next t ∧
      t = { afterPrologue 0x05 s with
        crc := crc16 (sa :: BitVec.ofNat 8 p.length :: p), ctxv := 0x01, outLen := t.outLen, outBuf := t.outBuf } ∧
      WritesOut s t (0x7F :: stuff
        ([sa, BitVec.ofNat 8 p.length] ++ p ++ [t.crc.extractLsb' 0 8, t.crc.extractLsb' 8 8])) ∧
      p.length + 5 ≤ t.outLen.toNat ∧ t.outLen.toNat ≤ 2 * p.length + 9) ∧
  (∀ (s : State) (sa : Byte), 1024 < s.inLen.toNat →
    exec (.packs sa) s = .next { afterPrologue 0x05 s with err := 0x0D }) ∧
  (∀ (s : State) (sa : Byte), 255 < s.inLen.toNat → s.inLen.toNat ≤ 1024 →
    exec (.packs sa) s = .next { afterPrologue 0x05 s with err := 0x0A }) ∧
  (∀ (p : List Byte) (sa : Byte), 0x7F ∉ (packFrame p sa).tail → packFrameStuffed p sa = packFrame p sa) ∧
  packFrameStuffed [0x7F] 0x00 = [0x7F, 0x00, 0x01, 0x7F, 0x7F, 0x01, 0x89] ∧
  packFrameStuffed [0x01] 0x7F = [0x7F, 0x7F, 0x7F, 0x01, 0x01, 0x0A, 0x0E] ∧
  crc16 [0x7F, 0x01, 0x01] = 0x0E0A

/-- UNPACK accepts a frame of at least 6 bytes with the start marker and the right checksum, whatever its Length byte,
and its payload is the bytes from index 3 to the checksum (R125, R126). -/
def Obligations.UnpackAcceptsAValidFrame : Prop :=
  ∀ (s : State) (f : List Byte) (c : Half),
    6 ≤ f.length → f.length ≤ 1024 → InputIs s f → f[0]? = some 0x7F →
    c = crc16 ((f.take (f.length - 2)).drop 1) →
    f[f.length - 2]? = some (c.extractLsb' 0 8) → f[f.length - 1]? = some (c.extractLsb' 8 8) →
    ∃ t, exec .unpack s = .next t ∧
      t = { afterPrologue 0x06 s with
        fbyte := 0x7F, flen := t.flen, crc := c, rcv := c, ctxv := 0x07, outLen := t.outLen, outBuf := t.outBuf } ∧
      f[2]? = some t.flen ∧ WritesOut s t ((f.take (f.length - 2)).drop 3)

/-- UNPACK reports the first failing test: length over 1024, fewer than 6 bytes (no byte of IN read), start marker,
checksum, with the context each leaves (R125, R163, R164). -/
def Obligations.UnpackReportsTheFirstFailingTest : Prop :=
  (∀ imm : Byte, decode (0x06#8 ++ imm) = .ok .unpack) ∧
  (∀ s : State, 1024 < s.inLen.toNat → exec .unpack s = .next { afterPrologue 0x06 s with err := 0x0D }) ∧
  (∀ s : State, s.inLen.toNat < 6 → exec .unpack s = .next { afterPrologue 0x06 s with err := 0x01 }) ∧
  (∀ (s : State) (f : List Byte) (f0 f2 : Byte), 6 ≤ f.length → f.length ≤ 1024 → InputIs s f →
    f[0]? = some f0 → f[2]? = some f2 → f0 ≠ 0x7F →
    exec .unpack s = .next { afterPrologue 0x06 s with err := 0x02, fbyte := f0, flen := f2, ctxv := 0x04 }) ∧
  (∀ (s : State) (f : List Byte) (f2 lo hi : Byte) (c : Half), 6 ≤ f.length → f.length ≤ 1024 → InputIs s f →
    f[0]? = some 0x7F → f[2]? = some f2 → f[f.length - 2]? = some lo → f[f.length - 1]? = some hi →
    c = crc16 ((f.take (f.length - 2)).drop 1) → hi ++ lo ≠ c →
    exec .unpack s = .next
      { afterPrologue 0x06 s with
        err := 0x03, fbyte := 0x7F, flen := f2, crc := c, rcv := hi ++ lo, ctxv := 0x07 })

/-- UNPACK does what the contract `unpack_frame` says (R124): its payload in OUT, or its error in ERR. -/
def Obligations.UnpackRefinesItsContract : Prop :=
  ∀ (s : State) (f : List Byte), f.length ≤ 1024 → InputIs s f →
    ∃ t, exec .unpack s = .next t ∧
      (∀ p, unpackFrame f = .ok p → t.err = 0x00 ∧ WritesOut s t p) ∧
      (∀ e, unpackFrame f = .error e → t.err = e.toErr ∧ WritesOut s t [])

/-- The round trip of a frame (R128): unpacking a packed payload of 1 to 255 bytes gives it back; the frame of an empty
payload is too short. -/
def Obligations.FrameRoundTrip : Prop :=
  (∀ (p : List Byte) (sa : Byte), 1 ≤ p.length → p.length ≤ 255 → unpackFrame (packFrame p sa) = .ok p) ∧
  (∀ sa : Byte, unpackFrame (packFrame [] sa) = .error .frameTooShort)

/-- The round trip as commands (R128): PACK, its output copied to IN of any state, then UNPACK gives the payload back,
with FLEN = len(p) and RCV = CRC. -/
def Obligations.PackThenUnpackReturnsThePayload : Prop :=
  ∀ (s t u : State) (sa : Byte) (p : List Byte), 1 ≤ p.length → p.length ≤ 255 → InputIs s p →
    exec (.pack sa) s = .next t →
    u.inLen = t.outLen → (∀ a, a < t.outLen.toNat → u.inBuf.read a = t.outBuf.read a) →
    ∃ v, exec .unpack u = .next v ∧ WritesOut u v p ∧
      v.err = 0x00 ∧ v.ctxv = 0x07 ∧ v.flen = BitVec.ofNat 8 p.length ∧ v.crc = t.crc ∧ v.rcv = v.crc

/-- A frame whose last two bytes were tampered with is rejected with CHECKSUM_MISMATCH (R124). -/
def Obligations.TamperedChecksumIsRejected : Prop :=
  ∀ (p : List Byte) (sa lo hi : Byte), 1 ≤ p.length →
    [lo, hi] ≠ cksumBytes (sa :: BitVec.ofNat 8 p.length :: p) →
    unpackFrame ([0x7F, sa, BitVec.ofNat 8 p.length] ++ p ++ [lo, hi]) = .error .checksumMismatch

/-! ### Sequence-toggle register (R140 to R145) -/

/-- SEQ_NEXT, whole (R141): it issues the sequence byte, remembers it, and toggles SEQ only. It never fails. -/
def Obligations.SeqNextIssuesThenToggles : Prop :=
  (∀ imm : Byte, decode (0x08#8 ++ imm) = .ok .seqNext) ∧
  (∀ s : State, ∃ t, exec .seqNext s = .next t ∧
    t = { afterPrologue 0x08 s with
      lastseq := s.seqaddr, seqstat := 0x01, seqaddr := t.seqaddr, outLen := t.outLen, outBuf := t.outBuf } ∧
    t.seqaddr.extractLsb' 7 1 = s.seqaddr.extractLsb' 7 1 ^^^ 1 ∧
    t.seqaddr.extractLsb' 0 7 = s.seqaddr.extractLsb' 0 7 ∧
    t.seqaddr = s.seqaddr ^^^ 0x80 ∧
    WritesOut s t [s.seqaddr])

/-- SEQ_RETRY, whole (R142): it issues LASTSEQ again without toggling, or raises NO_PRIOR_SEQUENCE; after SEQ_NEXT it
issues {~SEQ, ADDR}. -/
def Obligations.SeqRetryRepeatsWithoutToggling : Prop :=
  (∀ imm : Byte, decode (0x09#8 ++ imm) = .ok .seqRetry) ∧
  (∀ s : State, s.seqstat.getLsbD 0 = true → ∃ t, exec .seqRetry s = .next t ∧
    t = { afterPrologue 0x09 s with outLen := t.outLen, outBuf := t.outBuf } ∧ WritesOut s t [s.lastseq]) ∧
  (∀ s : State, s.seqstat.getLsbD 0 = false →
    exec .seqRetry s = .next { afterPrologue 0x09 s with err := 0x0B }) ∧
  (∀ s t : State, exec .seqNext s = .next t →
    ∃ u, exec .seqRetry t = .next u ∧ WritesOut t u [t.seqaddr ^^^ 0x80] ∧ t.seqaddr ^^^ 0x80 = s.seqaddr)

/-- The alternation law (R145): the SEQ_NEXT number `k` (counting from 0) issues {s0 ^ (k mod 2), a}, and SEQ ends as
s0 ^ (k + 1 mod 2), ADDR unchanged. -/
def Obligations.SequenceBytesAlternate : Prop :=
  ∀ (k : Nat) (s : State), ∃ t u, execTimes .seqNext k s = .next t ∧ exec .seqNext t = .next u ∧
    WritesOut t u [if k % 2 = 0 then s.seqaddr else s.seqaddr ^^^ 0x80] ∧
    u.seqaddr = if k % 2 = 0 then s.seqaddr ^^^ 0x80 else s.seqaddr

/-- LASTSEQ, LAST_V and SEQADDR change only as R36 to R38 say: LASTSEQ and LAST_V by SEQ_NEXT and RESET, SEQADDR also by
a host write to it. -/
def Obligations.OnlySeqNextChangesTheSequenceState : Prop :=
  ∀ (s t : State) (op : BusOp) (rest : List BusOp), s.bus = op :: rest → step s = .next t →
    op ≠ .reset → op ≠ .write 0x001 [0x08] →
      t.lastseq = s.lastseq ∧ t.seqstat = s.seqstat ∧
      ((∀ v, op ≠ .write 0x012 [v]) → t.seqaddr = s.seqaddr)

/-! ### Response classifier (R150 to R154) -/

/-- The response-code decoder, written out (R151). -/
def Obligations.ResponseClassTable : Prop :=
  rclass 0xF0 = 0x0 ∧ rclass 0xF2 = 0x1 ∧ rclass 0xF3 = 0x2 ∧ rclass 0xF4 = 0x3 ∧ rclass 0xF5 = 0x4 ∧
  rclass 0xF6 = 0x5 ∧ rclass 0xF8 = 0x6 ∧ rclass 0xFA = 0x7 ∧
  ∀ code : Byte, code ≠ 0xF0 → code ≠ 0xF2 → code ≠ 0xF3 → code ≠ 0xF4 → code ≠ 0xF5 → code ≠ 0xF6 →
    code ≠ 0xF8 → code ≠ 0xFA → rclass code = 0xF

/-- CLASSIFY with SRC = 0 (R153): every branch of its pseudocode, for every payload of up to 1024 bytes. -/
def Obligations.ClassifyInReportsTheOutcome : Prop :=
  (∀ imm : Byte, imm.getLsbD 0 = false → decode (0x07#8 ++ imm) = .ok (.classify .inBuf)) ∧
  (∀ (s : State) (q : List Byte), q.length ≤ 1024 → InputIs s q →
    ∃ t, exec (.classify .inBuf) s = .next t ∧ ClassifyEffect q s t) ∧
  (∀ s : State, 1024 < s.inLen.toNat →
    exec (.classify .inBuf) s = .next { afterPrologue 0x07 s with err := 0x0D })

/-- CLASSIFY with SRC = 1 (R153): the payload is the OUT of the command before, whatever IN and IN_LEN hold. -/
def Obligations.ClassifyOutUsesThePreviousOutput : Prop :=
  (∀ imm : Byte, imm.getLsbD 0 = true → decode (0x07#8 ++ imm) = .ok (.classify .outBuf)) ∧
  (∀ (s : State) (q : List Byte), OutputHolds s q →
    ∃ t, exec (.classify .outBuf) s = .next t ∧ ClassifyEffect q s t)

/-- What the host reads after CLASSIFY is the outcome of the contract `classify` (R152, R154). -/
def Obligations.ClassifyRefinesItsContract : Prop :=
  (∀ (s : State) (q : List Byte), q.length ≤ 1024 → InputIs s q →
    ∃ t, exec (.classify .inBuf) s = .next t ∧ readOutcome t = some (classify q)) ∧
  (∀ (s : State) (q : List Byte), OutputHolds s q →
    ∃ t, exec (.classify .outBuf) s = .next t ∧ readOutcome t = some (classify q))

/-! ### The whole machine -/

/-- The input length check applies to exactly the commands that use IN (R77). -/
def Obligations.IllegalLengthStopsExactlyInputCommands : Prop :=
  (∀ (i : Instr) (s : State), usesIn i = true → 1024 < s.inLen.toNat →
    exec i s = .next { afterPrologue (opcode i) s with err := 0x0D }) ∧
  (∀ (i : Instr) (s t : State), usesIn i = false → exec i s = .next t → t.err ≠ 0x0D) ∧
  (∀ i : Instr, usesIn i = false ↔ i = .seqNext ∨ i = .seqRetry ∨ i = .classify .outBuf)

/-- No command raises an error outside its row (R162). -/
def Obligations.CommandsRaiseOnlyTheirErrors : Prop :=
  ∀ (i : Instr) (s t : State), exec i s = .next t → ∃ c ∈ possibleErrors i, t.err = c.setWidth 8

/-- No command writes IN or IN_LEN: in any step they change only by the host's own write to them, or RESET (R66). -/
def Obligations.NoCommandWritesItsInput : Prop :=
  ∀ (s t : State) (op : BusOp) (rest : List BusOp), s.bus = op :: rest → step s = .next t → op ≠ .reset →
    ((∀ off v, op = .write off [v] → off.toNat < 0x400 ∨ 0x800 ≤ off.toNat) → t.inBuf = s.inBuf) ∧
    ((∀ v, op ≠ .write 0x00E [v] ∧ op ≠ .write 0x00F [v]) → t.inLen = s.inLen)

/-- A command writes no byte of OUT at index OUT_LEN or above (R40, R67). -/
def Obligations.OutBytesAboveOutLenStay : Prop :=
  ∀ (i : Instr) (s t : State), exec i s = .next t →
    ∀ a, t.outLen.toNat ≤ a → t.outBuf.read a = s.outBuf.read a

/-- A command that raises an error produces no output and leaves the sequence state, IMM and the input as they were
(R160). -/
def Obligations.ErrorsLeaveNoOutput : Prop :=
  ∀ (i : Instr) (s t : State), exec i s = .next t → t.err ≠ 0x00 →
    t.outLen = 0x0000 ∧ (∀ a, t.outBuf.read a = s.outBuf.read a) ∧
    t.seqaddr = s.seqaddr ∧ t.lastseq = s.lastseq ∧ t.seqstat = s.seqstat ∧
    t.imm = s.imm ∧ t.inBuf = s.inBuf ∧ t.inLen = s.inLen

/-- A command's results depend on its operands alone: not on earlier results (R76, R184), not on stale bytes of OUT
(U2), not on bytes of IN at IN_LEN or above. -/
def Obligations.ResultsDependOnOperandsAlone : Prop :=
  ∀ (i : Instr) (s1 s2 t1 : State), SameOperands i s1 s2 → exec i s1 = .next t1 →
    ∃ t2, exec i s2 = .next t2 ∧ SameResults t1 t2

/-- After `LOADIN bs` the input sequence is `bs`, and nothing else changed (R80, R183). -/
def Obligations.LoadinLoadsTheInput : Prop :=
  ∀ (s : State) (bs : List Byte) (rest : List BusOp), bs.length ≤ 1024 →
    s.bus = expand (.loadin bs) ++ rest →
    ∃ t, steps (bs.length + 2) s = .next t ∧ InputIs t bs ∧
      (∀ a, bs.length ≤ a → t.inBuf.read a = s.inBuf.read a) ∧
      t = { s with bus := rest, inLen := t.inLen, inBuf := t.inBuf }

/-- The invariant of the state: every step from a state that meets it gives one that does. -/
def Obligations.EveryStepKeepsTheStateInvariant : Prop :=
  ∀ s t : State, Inv s → step s = .next t → Inv t

/-- The error context of R163 and R26 holds after every step from a state where it holds. -/
def Obligations.EveryStepKeepsTheErrorContext : Prop :=
  ∀ s t : State, ErrorContext s → step s = .next t → ErrorContext t

/-- Both invariants hold at reset. -/
def Obligations.ResetMeetsTheInvariants : Prop :=
  Inv State.reset ∧ ErrorContext State.reset
end

