-- ==== Sys2Proof/Laws/Memory.lean ====
section
/-!
SUPPORT. The laws of the buffers: every operation keeps the canonical form, a read after a write gives what was written,
and a write leaves every other index alone.
-/

namespace Sys2Proof.Machine

@[simp] theorem Memory.read_nil (a : Nat) : Memory.read [] a = none := rfl

theorem Memory.read_cons (k : Nat) (v : Byte) (m : Memory) (a : Nat) :
    Memory.read ((k, v) :: m) a = if k = a then some v else Memory.read m a := rfl

/-! ### One byte -/

theorem Memory.read_write_same (m : Memory) (a : Nat) (b : Byte) : (Memory.write m a b).read a = some b := by
  induction m with
  | nil => simp [Memory.write, Memory.read]
  | cons c m ih =>
    obtain ⟨k, v⟩ := c
    simp only [Memory.write]
    split
    · simp [Memory.read]
    · split
      · simp [Memory.read]
      · next hne => simp [Memory.read, hne, ih]

theorem Memory.read_write_other (m : Memory) {a a' : Nat} (b : Byte) (h : a' ≠ a) :
    (Memory.write m a b).read a' = m.read a' := by
  induction m with
  | nil => simp [Memory.write, Memory.read, h.symm]
  | cons c m ih =>
    obtain ⟨k, v⟩ := c
    simp only [Memory.write]
    split
    · simp [Memory.read, h.symm]
    · split
      · next heq => subst heq; simp [Memory.read, h.symm]
      · simp [Memory.read, ih]

theorem Memory.mem_write {m : Memory} {a : Nat} {b : Byte} {c : Host.Cell} (h : c ∈ Memory.write m a b) :
    c = (a, b) ∨ c ∈ m := by
  induction m with
  | nil => simpa [Memory.write] using h
  | cons d m ih =>
    obtain ⟨k, v⟩ := d
    simp only [Memory.write] at h
    split at h
    · simpa using h
    · split at h
      · rcases List.mem_cons.1 h with h | h
        · exact .inl h
        · exact .inr (List.mem_cons_of_mem _ h)
      · rcases List.mem_cons.1 h with h | h
        · exact .inr (h ▸ List.mem_cons_self)
        · exact (ih h).imp_right (List.mem_cons_of_mem _)

/-- Writing one byte of the buffer keeps the canonical form. -/
theorem Memory.write_wf {cap : Nat} {m : Memory} {a : Nat} (b : Byte) (ha : a < cap) (h : m.wf cap) :
    (Memory.write m a b).wf cap := by
  refine ⟨?_, fun c hc => ?_⟩
  · have hp := h.1
    clear h
    induction m with
    | nil => simp [Memory.write]
    | cons d m ih =>
      obtain ⟨k, v⟩ := d
      rw [List.pairwise_cons] at hp
      simp only [Memory.write]
      split
      · next hlt =>
        refine List.pairwise_cons.2 ⟨fun c hc => ?_, List.pairwise_cons.2 hp⟩
        rcases List.mem_cons.1 hc with rfl | hc
        · exact hlt
        · exact Nat.lt_trans hlt (hp.1 c hc)
      · split
        · next heq => subst heq; exact List.pairwise_cons.2 ⟨hp.1, hp.2⟩
        · refine List.pairwise_cons.2 ⟨fun c hc => ?_, ih hp.2⟩
          rcases Memory.mem_write hc with rfl | hc
          · show k < a
            omega
          · exact hp.1 c hc
  · rcases Memory.mem_write hc with rfl | hc
    · exact ha
    · exact h.2 c hc

/-! ### A sequence from index 0 -/

theorem mem_cellsFrom {a : Nat} {bs : List Byte} {c : Host.Cell} (h : c ∈ cellsFrom a bs) :
    a ≤ c.1 ∧ c.1 < a + bs.length := by
  induction bs generalizing a with
  | nil => simp [cellsFrom] at h
  | cons b bs ih =>
    rcases List.mem_cons.1 h with rfl | h
    · simp
    · have := ih h
      simp only [List.length_cons]
      omega

theorem cellsFrom_pairwise (a : Nat) (bs : List Byte) : (cellsFrom a bs).Pairwise (fun c d => c.1 < d.1) := by
  induction bs generalizing a with
  | nil => exact List.Pairwise.nil
  | cons b bs ih => exact List.pairwise_cons.2 ⟨fun c hc => (mem_cellsFrom hc).1, ih (a + 1)⟩

theorem read_cellsFrom_append (a : Nat) (bs : List Byte) (m : Memory) (i : Nat) :
    Memory.read (cellsFrom a bs ++ m) i =
      if h : a ≤ i ∧ i - a < bs.length then some (bs[i - a]'h.2) else m.read i := by
  induction bs generalizing a with
  | nil => simp [cellsFrom]
  | cons b bs ih =>
    simp only [cellsFrom, List.cons_append, Memory.read, ih]
    by_cases hai : a = i
    · subst hai; simp
    · by_cases h : a + 1 ≤ i
      · have e : i - a = (i - (a + 1)) + 1 := by omega
        by_cases hl : i - (a + 1) < bs.length
        · rw [if_neg hai, dif_pos ⟨h, hl⟩, dif_pos ⟨by omega, by simp [e, hl]⟩]
          simp [e]
        · rw [if_neg hai, dif_neg (by omega), dif_neg]
          simp only [List.length_cons]
          omega
      · rw [if_neg hai, dif_neg (by omega), dif_neg (by omega)]

theorem read_filter (m : Memory) (n i : Nat) (h : n ≤ i) :
    Memory.read (m.filter (fun c => n ≤ c.1)) i = m.read i := by
  induction m with
  | nil => rfl
  | cons c m ih =>
    obtain ⟨k, v⟩ := c
    rw [List.filter_cons]
    split
    · simp [Memory.read, ih]
    · next hk =>
      have hki : k ≠ i := by
        simp only [decide_eq_true_eq] at hk
        omega
      simp [Memory.read, hki, ih]

/-- Reading after `OUT[0 ..< len(bs)] <- bs`: the bytes written below `len(bs)`, the old ones from there on. -/
theorem Memory.read_writeSeq (m : Memory) (bs : List Byte) (i : Nat) :
    (m.writeSeq bs).read i = if h : i < bs.length then some bs[i] else m.read i := by
  rw [Memory.writeSeq, read_cellsFrom_append]
  by_cases h : i < bs.length
  · simp [h]
  · rw [dif_neg (by omega), dif_neg h, read_filter m _ _ (by omega)]

/-- Writing a sequence that fits keeps the canonical form. -/
theorem Memory.writeSeq_wf {cap : Nat} {m : Memory} {bs : List Byte} (hb : bs.length ≤ cap) (h : m.wf cap) :
    (m.writeSeq bs).wf cap := by
  refine ⟨List.pairwise_append.2 ⟨cellsFrom_pairwise 0 bs, h.1.filter _, fun c hc d hd => ?_⟩, fun c hc => ?_⟩
  · have h1 := (mem_cellsFrom hc).2
    have h2 := (List.mem_filter.1 hd).2
    simp only [decide_eq_true_eq] at h2
    omega
  · rcases List.mem_append.1 hc with hc | hc
    · have := (mem_cellsFrom hc).2
      omega
    · exact h.2 c (List.mem_filter.1 hc).1

/-! ### Reading a sequence -/

/-- `readSeq` gives the bytes read one by one. -/
theorem Memory.readSeq_eq_some {m : Memory} {a n : Nat} {bs : List Byte} :
    m.readSeq a n = some bs ↔ bs.length = n ∧ ∀ i (h : i < bs.length), m.read (a + i) = some bs[i] := by
  induction n generalizing a bs with
  | zero =>
    constructor
    · intro h
      cases h
      exact ⟨rfl, fun i h => absurd h (Nat.not_lt_zero _)⟩
    · rintro ⟨h, -⟩
      rw [List.length_eq_zero_iff] at h
      subst h
      rfl
  | succ n ih =>
    constructor
    · intro h
      simp only [Memory.readSeq] at h
      split at h
      · next b bs' hb hbs =>
        cases h
        obtain ⟨hl, hr⟩ := ih.1 hbs
        refine ⟨by simp [hl], fun i hi => ?_⟩
        cases i with
        | zero => simpa using hb
        | succ i =>
          have := hr i (by simpa using hi)
          rw [Nat.add_right_comm] at this
          simpa [Nat.add_assoc] using this
      · cases h
    · rintro ⟨hl, hr⟩
      cases bs with
      | nil => simp at hl
      | cons b bs =>
        have h0 := hr 0 (by simp)
        have ht : m.readSeq (a + 1) n = some bs := by
          refine ih.2 ⟨by simpa using hl, fun i hi => ?_⟩
          have := hr (i + 1) (by simpa using hi)
          rw [← Nat.add_assoc, Nat.add_right_comm] at this
          simpa using this
        simp only [Nat.add_zero, List.getElem_cons_zero] at h0
        simp only [Memory.readSeq, h0, ht]

/-- `readSeq` fails exactly when one of the bytes holds no value. -/
theorem Memory.readSeq_eq_none {m : Memory} {a n : Nat} :
    m.readSeq a n = none ↔ ∃ i, i < n ∧ m.read (a + i) = none := by
  induction n generalizing a with
  | zero => simp [Memory.readSeq]
  | succ n ih =>
    constructor
    · intro h
      cases h0 : m.read a with
      | none => exact ⟨0, by omega, by simpa using h0⟩
      | some b =>
        cases h1 : m.readSeq (a + 1) n with
        | none =>
          obtain ⟨i, hi, hr⟩ := ih.1 h1
          exact ⟨i + 1, by omega, by rw [← hr]; congr 1; omega⟩
        | some bs => simp [Memory.readSeq, h0, h1] at h
    · rintro ⟨i, hi, hr⟩
      cases i with
      | zero =>
        rw [Nat.add_zero] at hr
        simp [Memory.readSeq, hr]
      | succ i =>
        have h1 : m.readSeq (a + 1) n = none := ih.2 ⟨i, by omega, by rw [← hr]; congr 1; omega⟩
        cases h0 : m.read a <;> simp [Memory.readSeq, h0, h1]

end Sys2Proof.Machine
end

