-- ==== Sys2Proof/Laws/State.lean ====
section
/-!
SUPPORT. One lemma per field per update of the state, so that no later proof unfolds a record update.
-/

namespace Sys2Proof.Machine

/-! ### `beginCommand` -/

@[simp] theorem beginCommand_imm (op : Byte) (s : State) : (beginCommand op s).imm = s.imm := rfl
@[simp] theorem beginCommand_lastop (op : Byte) (s : State) : (beginCommand op s).lastop = op := rfl
@[simp] theorem beginCommand_err (op : Byte) (s : State) : (beginCommand op s).err = 0x00 := rfl
@[simp] theorem beginCommand_ctxv (op : Byte) (s : State) : (beginCommand op s).ctxv = 0x00 := rfl
@[simp] theorem beginCommand_crc (op : Byte) (s : State) : (beginCommand op s).crc = 0x0000 := rfl
@[simp] theorem beginCommand_rcv (op : Byte) (s : State) : (beginCommand op s).rcv = 0x0000 := rfl
@[simp] theorem beginCommand_fbyte (op : Byte) (s : State) : (beginCommand op s).fbyte = 0x00 := rfl
@[simp] theorem beginCommand_flen (op : Byte) (s : State) : (beginCommand op s).flen = 0x00 := rfl
@[simp] theorem beginCommand_rcode (op : Byte) (s : State) : (beginCommand op s).rcode = 0x00 := rfl
@[simp] theorem beginCommand_rclass (op : Byte) (s : State) : (beginCommand op s).rclass = 0x00 := rfl
@[simp] theorem beginCommand_subcode (op : Byte) (s : State) : (beginCommand op s).subcode = 0x00 := rfl
@[simp] theorem beginCommand_inLen (op : Byte) (s : State) : (beginCommand op s).inLen = s.inLen := rfl
@[simp] theorem beginCommand_outLen (op : Byte) (s : State) : (beginCommand op s).outLen = 0x0000 := rfl
@[simp] theorem beginCommand_seqaddr (op : Byte) (s : State) : (beginCommand op s).seqaddr = s.seqaddr := rfl
@[simp] theorem beginCommand_lastseq (op : Byte) (s : State) : (beginCommand op s).lastseq = s.lastseq := rfl
@[simp] theorem beginCommand_seqstat (op : Byte) (s : State) : (beginCommand op s).seqstat = s.seqstat := rfl
@[simp] theorem beginCommand_inBuf (op : Byte) (s : State) : (beginCommand op s).inBuf = s.inBuf := rfl
@[simp] theorem beginCommand_outBuf (op : Byte) (s : State) : (beginCommand op s).outBuf = s.outBuf := rfl
@[simp] theorem beginCommand_bus (op : Byte) (s : State) : (beginCommand op s).bus = s.bus := rfl
@[simp] theorem beginCommand_replies (op : Byte) (s : State) : (beginCommand op s).replies = s.replies := rfl
@[simp] theorem beginCommand_resets (op : Byte) (s : State) : (beginCommand op s).resets = s.resets := rfl
@[simp] theorem beginCommand_epoch (op : Byte) (s : State) : (beginCommand op s).epoch = s.epoch + 1 := rfl

/-! ### `setErr` -/

@[simp] theorem setErr_imm (e : ErrCode) (s : State) : (s.setErr e).imm = s.imm := rfl
@[simp] theorem setErr_lastop (e : ErrCode) (s : State) : (s.setErr e).lastop = s.lastop := rfl
@[simp] theorem setErr_err (e : ErrCode) (s : State) : (s.setErr e).err = e.toErr := rfl
@[simp] theorem setErr_ctxv (e : ErrCode) (s : State) : (s.setErr e).ctxv = s.ctxv := rfl
@[simp] theorem setErr_crc (e : ErrCode) (s : State) : (s.setErr e).crc = s.crc := rfl
@[simp] theorem setErr_rcv (e : ErrCode) (s : State) : (s.setErr e).rcv = s.rcv := rfl
@[simp] theorem setErr_fbyte (e : ErrCode) (s : State) : (s.setErr e).fbyte = s.fbyte := rfl
@[simp] theorem setErr_flen (e : ErrCode) (s : State) : (s.setErr e).flen = s.flen := rfl
@[simp] theorem setErr_rcode (e : ErrCode) (s : State) : (s.setErr e).rcode = s.rcode := rfl
@[simp] theorem setErr_rclass (e : ErrCode) (s : State) : (s.setErr e).rclass = s.rclass := rfl
@[simp] theorem setErr_subcode (e : ErrCode) (s : State) : (s.setErr e).subcode = s.subcode := rfl
@[simp] theorem setErr_inLen (e : ErrCode) (s : State) : (s.setErr e).inLen = s.inLen := rfl
@[simp] theorem setErr_outLen (e : ErrCode) (s : State) : (s.setErr e).outLen = s.outLen := rfl
@[simp] theorem setErr_seqaddr (e : ErrCode) (s : State) : (s.setErr e).seqaddr = s.seqaddr := rfl
@[simp] theorem setErr_lastseq (e : ErrCode) (s : State) : (s.setErr e).lastseq = s.lastseq := rfl
@[simp] theorem setErr_seqstat (e : ErrCode) (s : State) : (s.setErr e).seqstat = s.seqstat := rfl
@[simp] theorem setErr_inBuf (e : ErrCode) (s : State) : (s.setErr e).inBuf = s.inBuf := rfl
@[simp] theorem setErr_outBuf (e : ErrCode) (s : State) : (s.setErr e).outBuf = s.outBuf := rfl
@[simp] theorem setErr_bus (e : ErrCode) (s : State) : (s.setErr e).bus = s.bus := rfl
@[simp] theorem setErr_replies (e : ErrCode) (s : State) : (s.setErr e).replies = s.replies := rfl
@[simp] theorem setErr_resets (e : ErrCode) (s : State) : (s.setErr e).resets = s.resets := rfl
@[simp] theorem setErr_epoch (e : ErrCode) (s : State) : (s.setErr e).epoch = s.epoch := rfl

/-! ### `setCrc` -/

@[simp] theorem setCrc_imm (c : Half) (s : State) : (s.setCrc c).imm = s.imm := rfl
@[simp] theorem setCrc_lastop (c : Half) (s : State) : (s.setCrc c).lastop = s.lastop := rfl
@[simp] theorem setCrc_err (c : Half) (s : State) : (s.setCrc c).err = s.err := rfl
@[simp] theorem setCrc_ctxv (c : Half) (s : State) : (s.setCrc c).ctxv = s.ctxv ||| crcV := rfl
@[simp] theorem setCrc_crc (c : Half) (s : State) : (s.setCrc c).crc = c := rfl
@[simp] theorem setCrc_rcv (c : Half) (s : State) : (s.setCrc c).rcv = s.rcv := rfl
@[simp] theorem setCrc_fbyte (c : Half) (s : State) : (s.setCrc c).fbyte = s.fbyte := rfl
@[simp] theorem setCrc_flen (c : Half) (s : State) : (s.setCrc c).flen = s.flen := rfl
@[simp] theorem setCrc_rcode (c : Half) (s : State) : (s.setCrc c).rcode = s.rcode := rfl
@[simp] theorem setCrc_rclass (c : Half) (s : State) : (s.setCrc c).rclass = s.rclass := rfl
@[simp] theorem setCrc_subcode (c : Half) (s : State) : (s.setCrc c).subcode = s.subcode := rfl
@[simp] theorem setCrc_inLen (c : Half) (s : State) : (s.setCrc c).inLen = s.inLen := rfl
@[simp] theorem setCrc_outLen (c : Half) (s : State) : (s.setCrc c).outLen = s.outLen := rfl
@[simp] theorem setCrc_seqaddr (c : Half) (s : State) : (s.setCrc c).seqaddr = s.seqaddr := rfl
@[simp] theorem setCrc_lastseq (c : Half) (s : State) : (s.setCrc c).lastseq = s.lastseq := rfl
@[simp] theorem setCrc_seqstat (c : Half) (s : State) : (s.setCrc c).seqstat = s.seqstat := rfl
@[simp] theorem setCrc_inBuf (c : Half) (s : State) : (s.setCrc c).inBuf = s.inBuf := rfl
@[simp] theorem setCrc_outBuf (c : Half) (s : State) : (s.setCrc c).outBuf = s.outBuf := rfl
@[simp] theorem setCrc_bus (c : Half) (s : State) : (s.setCrc c).bus = s.bus := rfl
@[simp] theorem setCrc_replies (c : Half) (s : State) : (s.setCrc c).replies = s.replies := rfl
@[simp] theorem setCrc_resets (c : Half) (s : State) : (s.setCrc c).resets = s.resets := rfl
@[simp] theorem setCrc_epoch (c : Half) (s : State) : (s.setCrc c).epoch = s.epoch := rfl

/-! ### `setRcv` -/

@[simp] theorem setRcv_imm (r : Half) (s : State) : (s.setRcv r).imm = s.imm := rfl
@[simp] theorem setRcv_lastop (r : Half) (s : State) : (s.setRcv r).lastop = s.lastop := rfl
@[simp] theorem setRcv_err (r : Half) (s : State) : (s.setRcv r).err = s.err := rfl
@[simp] theorem setRcv_ctxv (r : Half) (s : State) : (s.setRcv r).ctxv = s.ctxv ||| rcvV := rfl
@[simp] theorem setRcv_crc (r : Half) (s : State) : (s.setRcv r).crc = s.crc := rfl
@[simp] theorem setRcv_rcv (r : Half) (s : State) : (s.setRcv r).rcv = r := rfl
@[simp] theorem setRcv_fbyte (r : Half) (s : State) : (s.setRcv r).fbyte = s.fbyte := rfl
@[simp] theorem setRcv_flen (r : Half) (s : State) : (s.setRcv r).flen = s.flen := rfl
@[simp] theorem setRcv_rcode (r : Half) (s : State) : (s.setRcv r).rcode = s.rcode := rfl
@[simp] theorem setRcv_rclass (r : Half) (s : State) : (s.setRcv r).rclass = s.rclass := rfl
@[simp] theorem setRcv_subcode (r : Half) (s : State) : (s.setRcv r).subcode = s.subcode := rfl
@[simp] theorem setRcv_inLen (r : Half) (s : State) : (s.setRcv r).inLen = s.inLen := rfl
@[simp] theorem setRcv_outLen (r : Half) (s : State) : (s.setRcv r).outLen = s.outLen := rfl
@[simp] theorem setRcv_seqaddr (r : Half) (s : State) : (s.setRcv r).seqaddr = s.seqaddr := rfl
@[simp] theorem setRcv_lastseq (r : Half) (s : State) : (s.setRcv r).lastseq = s.lastseq := rfl
@[simp] theorem setRcv_seqstat (r : Half) (s : State) : (s.setRcv r).seqstat = s.seqstat := rfl
@[simp] theorem setRcv_inBuf (r : Half) (s : State) : (s.setRcv r).inBuf = s.inBuf := rfl
@[simp] theorem setRcv_outBuf (r : Half) (s : State) : (s.setRcv r).outBuf = s.outBuf := rfl
@[simp] theorem setRcv_bus (r : Half) (s : State) : (s.setRcv r).bus = s.bus := rfl
@[simp] theorem setRcv_replies (r : Half) (s : State) : (s.setRcv r).replies = s.replies := rfl
@[simp] theorem setRcv_resets (r : Half) (s : State) : (s.setRcv r).resets = s.resets := rfl
@[simp] theorem setRcv_epoch (r : Half) (s : State) : (s.setRcv r).epoch = s.epoch := rfl

/-! ### `setHeader` -/

@[simp] theorem setHeader_imm (fb fl : Byte) (s : State) : (s.setHeader fb fl).imm = s.imm := rfl
@[simp] theorem setHeader_lastop (fb fl : Byte) (s : State) : (s.setHeader fb fl).lastop = s.lastop := rfl
@[simp] theorem setHeader_err (fb fl : Byte) (s : State) : (s.setHeader fb fl).err = s.err := rfl
@[simp] theorem setHeader_ctxv (fb fl : Byte) (s : State) : (s.setHeader fb fl).ctxv = s.ctxv ||| hdrV := rfl
@[simp] theorem setHeader_crc (fb fl : Byte) (s : State) : (s.setHeader fb fl).crc = s.crc := rfl
@[simp] theorem setHeader_rcv (fb fl : Byte) (s : State) : (s.setHeader fb fl).rcv = s.rcv := rfl
@[simp] theorem setHeader_fbyte (fb fl : Byte) (s : State) : (s.setHeader fb fl).fbyte = fb := rfl
@[simp] theorem setHeader_flen (fb fl : Byte) (s : State) : (s.setHeader fb fl).flen = fl := rfl
@[simp] theorem setHeader_rcode (fb fl : Byte) (s : State) : (s.setHeader fb fl).rcode = s.rcode := rfl
@[simp] theorem setHeader_rclass (fb fl : Byte) (s : State) : (s.setHeader fb fl).rclass = s.rclass := rfl
@[simp] theorem setHeader_subcode (fb fl : Byte) (s : State) : (s.setHeader fb fl).subcode = s.subcode := rfl
@[simp] theorem setHeader_inLen (fb fl : Byte) (s : State) : (s.setHeader fb fl).inLen = s.inLen := rfl
@[simp] theorem setHeader_outLen (fb fl : Byte) (s : State) : (s.setHeader fb fl).outLen = s.outLen := rfl
@[simp] theorem setHeader_seqaddr (fb fl : Byte) (s : State) : (s.setHeader fb fl).seqaddr = s.seqaddr := rfl
@[simp] theorem setHeader_lastseq (fb fl : Byte) (s : State) : (s.setHeader fb fl).lastseq = s.lastseq := rfl
@[simp] theorem setHeader_seqstat (fb fl : Byte) (s : State) : (s.setHeader fb fl).seqstat = s.seqstat := rfl
@[simp] theorem setHeader_inBuf (fb fl : Byte) (s : State) : (s.setHeader fb fl).inBuf = s.inBuf := rfl
@[simp] theorem setHeader_outBuf (fb fl : Byte) (s : State) : (s.setHeader fb fl).outBuf = s.outBuf := rfl
@[simp] theorem setHeader_bus (fb fl : Byte) (s : State) : (s.setHeader fb fl).bus = s.bus := rfl
@[simp] theorem setHeader_replies (fb fl : Byte) (s : State) : (s.setHeader fb fl).replies = s.replies := rfl
@[simp] theorem setHeader_resets (fb fl : Byte) (s : State) : (s.setHeader fb fl).resets = s.resets := rfl
@[simp] theorem setHeader_epoch (fb fl : Byte) (s : State) : (s.setHeader fb fl).epoch = s.epoch := rfl

/-! ### `setResponse` -/

@[simp] theorem setResponse_imm (code : Byte) (cls : BitVec 4) (s : State) : (s.setResponse code cls).imm = s.imm := rfl
@[simp] theorem setResponse_lastop (code : Byte) (cls : BitVec 4) (s : State) : (s.setResponse code cls).lastop = s.lastop := rfl
@[simp] theorem setResponse_err (code : Byte) (cls : BitVec 4) (s : State) : (s.setResponse code cls).err = s.err := rfl
@[simp] theorem setResponse_ctxv (code : Byte) (cls : BitVec 4) (s : State) : (s.setResponse code cls).ctxv = s.ctxv ||| rcV := rfl
@[simp] theorem setResponse_crc (code : Byte) (cls : BitVec 4) (s : State) : (s.setResponse code cls).crc = s.crc := rfl
@[simp] theorem setResponse_rcv (code : Byte) (cls : BitVec 4) (s : State) : (s.setResponse code cls).rcv = s.rcv := rfl
@[simp] theorem setResponse_fbyte (code : Byte) (cls : BitVec 4) (s : State) : (s.setResponse code cls).fbyte = s.fbyte := rfl
@[simp] theorem setResponse_flen (code : Byte) (cls : BitVec 4) (s : State) : (s.setResponse code cls).flen = s.flen := rfl
@[simp] theorem setResponse_rcode (code : Byte) (cls : BitVec 4) (s : State) : (s.setResponse code cls).rcode = code := rfl
@[simp] theorem setResponse_rclass (code : Byte) (cls : BitVec 4) (s : State) : (s.setResponse code cls).rclass = cls.setWidth 8 := rfl
@[simp] theorem setResponse_subcode (code : Byte) (cls : BitVec 4) (s : State) : (s.setResponse code cls).subcode = s.subcode := rfl
@[simp] theorem setResponse_inLen (code : Byte) (cls : BitVec 4) (s : State) : (s.setResponse code cls).inLen = s.inLen := rfl
@[simp] theorem setResponse_outLen (code : Byte) (cls : BitVec 4) (s : State) : (s.setResponse code cls).outLen = s.outLen := rfl
@[simp] theorem setResponse_seqaddr (code : Byte) (cls : BitVec 4) (s : State) : (s.setResponse code cls).seqaddr = s.seqaddr := rfl
@[simp] theorem setResponse_lastseq (code : Byte) (cls : BitVec 4) (s : State) : (s.setResponse code cls).lastseq = s.lastseq := rfl
@[simp] theorem setResponse_seqstat (code : Byte) (cls : BitVec 4) (s : State) : (s.setResponse code cls).seqstat = s.seqstat := rfl
@[simp] theorem setResponse_inBuf (code : Byte) (cls : BitVec 4) (s : State) : (s.setResponse code cls).inBuf = s.inBuf := rfl
@[simp] theorem setResponse_outBuf (code : Byte) (cls : BitVec 4) (s : State) : (s.setResponse code cls).outBuf = s.outBuf := rfl
@[simp] theorem setResponse_bus (code : Byte) (cls : BitVec 4) (s : State) : (s.setResponse code cls).bus = s.bus := rfl
@[simp] theorem setResponse_replies (code : Byte) (cls : BitVec 4) (s : State) : (s.setResponse code cls).replies = s.replies := rfl
@[simp] theorem setResponse_resets (code : Byte) (cls : BitVec 4) (s : State) : (s.setResponse code cls).resets = s.resets := rfl
@[simp] theorem setResponse_epoch (code : Byte) (cls : BitVec 4) (s : State) : (s.setResponse code cls).epoch = s.epoch := rfl

/-! ### `setSubcode` -/

@[simp] theorem setSubcode_imm (sub : Byte) (s : State) : (s.setSubcode sub).imm = s.imm := rfl
@[simp] theorem setSubcode_lastop (sub : Byte) (s : State) : (s.setSubcode sub).lastop = s.lastop := rfl
@[simp] theorem setSubcode_err (sub : Byte) (s : State) : (s.setSubcode sub).err = s.err := rfl
@[simp] theorem setSubcode_ctxv (sub : Byte) (s : State) : (s.setSubcode sub).ctxv = s.ctxv ||| subV := rfl
@[simp] theorem setSubcode_crc (sub : Byte) (s : State) : (s.setSubcode sub).crc = s.crc := rfl
@[simp] theorem setSubcode_rcv (sub : Byte) (s : State) : (s.setSubcode sub).rcv = s.rcv := rfl
@[simp] theorem setSubcode_fbyte (sub : Byte) (s : State) : (s.setSubcode sub).fbyte = s.fbyte := rfl
@[simp] theorem setSubcode_flen (sub : Byte) (s : State) : (s.setSubcode sub).flen = s.flen := rfl
@[simp] theorem setSubcode_rcode (sub : Byte) (s : State) : (s.setSubcode sub).rcode = s.rcode := rfl
@[simp] theorem setSubcode_rclass (sub : Byte) (s : State) : (s.setSubcode sub).rclass = s.rclass := rfl
@[simp] theorem setSubcode_subcode (sub : Byte) (s : State) : (s.setSubcode sub).subcode = sub := rfl
@[simp] theorem setSubcode_inLen (sub : Byte) (s : State) : (s.setSubcode sub).inLen = s.inLen := rfl
@[simp] theorem setSubcode_outLen (sub : Byte) (s : State) : (s.setSubcode sub).outLen = s.outLen := rfl
@[simp] theorem setSubcode_seqaddr (sub : Byte) (s : State) : (s.setSubcode sub).seqaddr = s.seqaddr := rfl
@[simp] theorem setSubcode_lastseq (sub : Byte) (s : State) : (s.setSubcode sub).lastseq = s.lastseq := rfl
@[simp] theorem setSubcode_seqstat (sub : Byte) (s : State) : (s.setSubcode sub).seqstat = s.seqstat := rfl
@[simp] theorem setSubcode_inBuf (sub : Byte) (s : State) : (s.setSubcode sub).inBuf = s.inBuf := rfl
@[simp] theorem setSubcode_outBuf (sub : Byte) (s : State) : (s.setSubcode sub).outBuf = s.outBuf := rfl
@[simp] theorem setSubcode_bus (sub : Byte) (s : State) : (s.setSubcode sub).bus = s.bus := rfl
@[simp] theorem setSubcode_replies (sub : Byte) (s : State) : (s.setSubcode sub).replies = s.replies := rfl
@[simp] theorem setSubcode_resets (sub : Byte) (s : State) : (s.setSubcode sub).resets = s.resets := rfl
@[simp] theorem setSubcode_epoch (sub : Byte) (s : State) : (s.setSubcode sub).epoch = s.epoch := rfl

/-! ### `setOut` -/

@[simp] theorem setOut_imm (bs : List Byte) (s : State) : (s.setOut bs).imm = s.imm := rfl
@[simp] theorem setOut_lastop (bs : List Byte) (s : State) : (s.setOut bs).lastop = s.lastop := rfl
@[simp] theorem setOut_err (bs : List Byte) (s : State) : (s.setOut bs).err = s.err := rfl
@[simp] theorem setOut_ctxv (bs : List Byte) (s : State) : (s.setOut bs).ctxv = s.ctxv := rfl
@[simp] theorem setOut_crc (bs : List Byte) (s : State) : (s.setOut bs).crc = s.crc := rfl
@[simp] theorem setOut_rcv (bs : List Byte) (s : State) : (s.setOut bs).rcv = s.rcv := rfl
@[simp] theorem setOut_fbyte (bs : List Byte) (s : State) : (s.setOut bs).fbyte = s.fbyte := rfl
@[simp] theorem setOut_flen (bs : List Byte) (s : State) : (s.setOut bs).flen = s.flen := rfl
@[simp] theorem setOut_rcode (bs : List Byte) (s : State) : (s.setOut bs).rcode = s.rcode := rfl
@[simp] theorem setOut_rclass (bs : List Byte) (s : State) : (s.setOut bs).rclass = s.rclass := rfl
@[simp] theorem setOut_subcode (bs : List Byte) (s : State) : (s.setOut bs).subcode = s.subcode := rfl
@[simp] theorem setOut_inLen (bs : List Byte) (s : State) : (s.setOut bs).inLen = s.inLen := rfl
@[simp] theorem setOut_outLen (bs : List Byte) (s : State) : (s.setOut bs).outLen = BitVec.ofNat 16 bs.length := rfl
@[simp] theorem setOut_seqaddr (bs : List Byte) (s : State) : (s.setOut bs).seqaddr = s.seqaddr := rfl
@[simp] theorem setOut_lastseq (bs : List Byte) (s : State) : (s.setOut bs).lastseq = s.lastseq := rfl
@[simp] theorem setOut_seqstat (bs : List Byte) (s : State) : (s.setOut bs).seqstat = s.seqstat := rfl
@[simp] theorem setOut_inBuf (bs : List Byte) (s : State) : (s.setOut bs).inBuf = s.inBuf := rfl
@[simp] theorem setOut_outBuf (bs : List Byte) (s : State) : (s.setOut bs).outBuf = s.outBuf.writeSeq bs := rfl
@[simp] theorem setOut_bus (bs : List Byte) (s : State) : (s.setOut bs).bus = s.bus := rfl
@[simp] theorem setOut_replies (bs : List Byte) (s : State) : (s.setOut bs).replies = s.replies := rfl
@[simp] theorem setOut_resets (bs : List Byte) (s : State) : (s.setOut bs).resets = s.resets := rfl
@[simp] theorem setOut_epoch (bs : List Byte) (s : State) : (s.setOut bs).epoch = s.epoch := rfl

/-! ### `advanceSeq` -/

@[simp] theorem advanceSeq_imm (s : State) : (s.advanceSeq).imm = s.imm := rfl
@[simp] theorem advanceSeq_lastop (s : State) : (s.advanceSeq).lastop = s.lastop := rfl
@[simp] theorem advanceSeq_err (s : State) : (s.advanceSeq).err = s.err := rfl
@[simp] theorem advanceSeq_ctxv (s : State) : (s.advanceSeq).ctxv = s.ctxv := rfl
@[simp] theorem advanceSeq_crc (s : State) : (s.advanceSeq).crc = s.crc := rfl
@[simp] theorem advanceSeq_rcv (s : State) : (s.advanceSeq).rcv = s.rcv := rfl
@[simp] theorem advanceSeq_fbyte (s : State) : (s.advanceSeq).fbyte = s.fbyte := rfl
@[simp] theorem advanceSeq_flen (s : State) : (s.advanceSeq).flen = s.flen := rfl
@[simp] theorem advanceSeq_rcode (s : State) : (s.advanceSeq).rcode = s.rcode := rfl
@[simp] theorem advanceSeq_rclass (s : State) : (s.advanceSeq).rclass = s.rclass := rfl
@[simp] theorem advanceSeq_subcode (s : State) : (s.advanceSeq).subcode = s.subcode := rfl
@[simp] theorem advanceSeq_inLen (s : State) : (s.advanceSeq).inLen = s.inLen := rfl
@[simp] theorem advanceSeq_outLen (s : State) : (s.advanceSeq).outLen = s.outLen := rfl
@[simp] theorem advanceSeq_seqaddr (s : State) : (s.advanceSeq).seqaddr = toggleSeq s.seqaddr := rfl
@[simp] theorem advanceSeq_lastseq (s : State) : (s.advanceSeq).lastseq = s.seqaddr := rfl
@[simp] theorem advanceSeq_seqstat (s : State) : (s.advanceSeq).seqstat = lastVSet := rfl
@[simp] theorem advanceSeq_inBuf (s : State) : (s.advanceSeq).inBuf = s.inBuf := rfl
@[simp] theorem advanceSeq_outBuf (s : State) : (s.advanceSeq).outBuf = s.outBuf := rfl
@[simp] theorem advanceSeq_bus (s : State) : (s.advanceSeq).bus = s.bus := rfl
@[simp] theorem advanceSeq_replies (s : State) : (s.advanceSeq).replies = s.replies := rfl
@[simp] theorem advanceSeq_resets (s : State) : (s.advanceSeq).resets = s.resets := rfl
@[simp] theorem advanceSeq_epoch (s : State) : (s.advanceSeq).epoch = s.epoch := rfl

/-! ### `resetEvent` -/

@[simp] theorem resetEvent_imm (s : State) : (resetEvent s).imm = 0x00 := rfl
@[simp] theorem resetEvent_lastop (s : State) : (resetEvent s).lastop = 0x00 := rfl
@[simp] theorem resetEvent_err (s : State) : (resetEvent s).err = 0x00 := rfl
@[simp] theorem resetEvent_ctxv (s : State) : (resetEvent s).ctxv = 0x00 := rfl
@[simp] theorem resetEvent_crc (s : State) : (resetEvent s).crc = 0x0000 := rfl
@[simp] theorem resetEvent_rcv (s : State) : (resetEvent s).rcv = 0x0000 := rfl
@[simp] theorem resetEvent_fbyte (s : State) : (resetEvent s).fbyte = 0x00 := rfl
@[simp] theorem resetEvent_flen (s : State) : (resetEvent s).flen = 0x00 := rfl
@[simp] theorem resetEvent_rcode (s : State) : (resetEvent s).rcode = 0x00 := rfl
@[simp] theorem resetEvent_rclass (s : State) : (resetEvent s).rclass = 0x00 := rfl
@[simp] theorem resetEvent_subcode (s : State) : (resetEvent s).subcode = 0x00 := rfl
@[simp] theorem resetEvent_inLen (s : State) : (resetEvent s).inLen = 0x0000 := rfl
@[simp] theorem resetEvent_outLen (s : State) : (resetEvent s).outLen = 0x0000 := rfl
@[simp] theorem resetEvent_seqaddr (s : State) : (resetEvent s).seqaddr = 0x00 := rfl
@[simp] theorem resetEvent_lastseq (s : State) : (resetEvent s).lastseq = 0x00 := rfl
@[simp] theorem resetEvent_seqstat (s : State) : (resetEvent s).seqstat = 0x00 := rfl
@[simp] theorem resetEvent_inBuf (s : State) : (resetEvent s).inBuf = [] := rfl
@[simp] theorem resetEvent_outBuf (s : State) : (resetEvent s).outBuf = [] := rfl
@[simp] theorem resetEvent_bus (s : State) : (resetEvent s).bus = s.bus := rfl
@[simp] theorem resetEvent_replies (s : State) : (resetEvent s).replies = s.replies := rfl
@[simp] theorem resetEvent_resets (s : State) : (resetEvent s).resets = s.resets + 1 := rfl
@[simp] theorem resetEvent_epoch (s : State) : (resetEvent s).epoch = s.epoch + 1 := rfl

end Sys2Proof.Machine
end

