-- ==== Sys2Proof/Laws/Ops.lean ====
section
/-!
SUPPORT. One lemma per shared operation that says everything it can do; a command's proof cites these and does not unfold
them.
-/

namespace Sys2Proof.Machine

/-! ### Operands -/

theorem input_eq_some {s : State} {p : List Byte} :
    s.input = some p ↔ p.length = s.inLen.toNat ∧ ∀ i (h : i < p.length), s.inBuf.read i = some p[i] := by
  simp [State.input, Memory.readSeq_eq_some]

theorem input_eq_none {s : State} : s.input = none ↔ ∃ i, i < s.inLen.toNat ∧ s.inBuf.read i = none := by
  simp [State.input, Memory.readSeq_eq_none]

theorem written_iff {s : State} : Written s ↔ ∃ p, s.input = some p := by
  rw [← Option.isSome_iff_exists, ← Option.ne_none_iff_isSome, ne_eq, input_eq_none]
  simp only [Written, not_exists, not_and, ← ne_eq, Option.ne_none_iff_isSome]

@[simp] theorem input_beginCommand (op : Byte) (s : State) : (beginCommand op s).input = s.input := rfl

@[simp] theorem length_snapshot (s : State) : s.snapshot.length = s.outLen.toNat := by simp [State.snapshot]

@[simp] theorem getElem_snapshot (s : State) (i : Nat) (h : i < s.snapshot.length) :
    s.snapshot[i] = s.resultByte i := by simp [State.snapshot]

/-- The snapshot is the bytes OUT holds below OUT_LEN. -/
theorem snapshot_eq {s : State} {q : List Byte} (hl : q.length = s.outLen.toNat)
    (hr : ∀ i (h : i < q.length), s.outBuf.read i = some q[i]) : s.snapshot = q := by
  refine List.ext_getElem (by simp [hl]) fun i h1 h2 => ?_
  simp [State.resultByte, hr i h2]

/-! ### CTXV after the prologue: the bits a command sets (R26, R163) -/

@[simp] theorem crcV_eq : crcV = 0x01 := rfl

@[simp] theorem rcvV_eq : rcvV = 0x02 := rfl

@[simp] theorem hdrV_eq : hdrV = 0x04 := rfl

@[simp] theorem rcV_eq : rcV = 0x08 := rfl

@[simp] theorem subV_eq : subV = 0x10 := rfl

/-! ### ERR: the number of each error (R161) -/

@[simp] theorem toErr_frameTooShort : ErrCode.frameTooShort.toErr = 0x01 := rfl

@[simp] theorem toErr_invalidFraming : ErrCode.invalidFraming.toErr = 0x02 := rfl

@[simp] theorem toErr_checksumMismatch : ErrCode.checksumMismatch.toErr = 0x03 := rfl

@[simp] theorem toErr_emptyPayload : ErrCode.emptyPayload.toErr = 0x04 := rfl

@[simp] theorem toErr_deviceBusy : ErrCode.deviceBusy.toErr = 0x05 := rfl

@[simp] theorem toErr_cannotProcess : ErrCode.cannotProcess.toErr = 0x06 := rfl

@[simp] theorem toErr_protocolError : ErrCode.protocolError.toErr = 0x07 := rfl

@[simp] theorem toErr_transportWriteShort : ErrCode.transportWriteShort.toErr = 0x08 := rfl

@[simp] theorem toErr_transportError : ErrCode.transportError.toErr = 0x09 := rfl

@[simp] theorem toErr_payloadTooLong : ErrCode.payloadTooLong.toErr = 0x0A := rfl

@[simp] theorem toErr_noPriorSequence : ErrCode.noPriorSequence.toErr = 0x0B := rfl

@[simp] theorem toErr_illegalCommand : ErrCode.illegalCommand.toErr = 0x0C := rfl

@[simp] theorem toErr_illegalLength : ErrCode.illegalLength.toErr = 0x0D := rfl

/-! ### The checks before the body -/

theorem checkInputLength_of_le {s : State} {body : Result} (h : s.inLen.toNat ≤ 1024) :
    checkInputLength s body = body := by
  rw [checkInputLength, if_neg]
  exact Nat.not_lt.2 h

theorem checkInputLength_of_gt {s : State} {body : Result} (h : 1024 < s.inLen.toNat) :
    checkInputLength s body = .next (s.setErr .illegalLength) := by
  rw [checkInputLength, if_pos]
  · rfl
  · exact h

theorem checkInputLength_next {s t : State} {body : Result} (h : checkInputLength s body = .next t) :
    (1024 < s.inLen.toNat ∧ t = s.setErr .illegalLength) ∨ (s.inLen.toNat ≤ 1024 ∧ body = .next t) := by
  rcases Nat.lt_or_ge 1024 s.inLen.toNat with hl | hl
  · rw [checkInputLength_of_gt hl] at h
    cases h
    exact .inl ⟨hl, rfl⟩
  · rw [checkInputLength_of_le hl] at h
    exact .inr ⟨hl, h⟩

theorem consumeInput_of_some {s : State} {p : List Byte} {body : List Byte → Result} (h : s.input = some p) :
    consumeInput s body = body p := by
  simp [consumeInput, h]

theorem consumeInput_of_none {s : State} {body : List Byte → Result} (h : s.input = none) :
    consumeInput s body = .fault .uninitInput := by
  simp [consumeInput, h]

theorem consumeInput_next {s t : State} {body : List Byte → Result} (h : consumeInput s body = .next t) :
    ∃ p, s.input = some p ∧ body p = .next t := by
  cases hp : s.input with
  | none => rw [consumeInput_of_none hp] at h; cases h
  | some p => exact ⟨p, rfl, by rwa [consumeInput_of_some hp] at h⟩

theorem checkPayloadLength_of_le {s : State} {body : Result} (h : s.inLen.toNat ≤ 255) :
    checkPayloadLength s body = body := by
  rw [checkPayloadLength, if_neg]
  exact Nat.not_lt.2 h

theorem checkPayloadLength_of_gt {s : State} {body : Result} (h : 255 < s.inLen.toNat) :
    checkPayloadLength s body = .next (s.setErr .payloadTooLong) := by
  rw [checkPayloadLength, if_pos]
  · rfl
  · exact h

theorem checkPayloadLength_next {s t : State} {body : Result} (h : checkPayloadLength s body = .next t) :
    (255 < s.inLen.toNat ∧ t = s.setErr .payloadTooLong) ∨ (s.inLen.toNat ≤ 255 ∧ body = .next t) := by
  rcases Nat.lt_or_ge 255 s.inLen.toNat with hl | hl
  · rw [checkPayloadLength_of_gt hl] at h
    cases h
    exact .inl ⟨hl, rfl⟩
  · rw [checkPayloadLength_of_le hl] at h
    exact .inr ⟨hl, h⟩

/-! ### Pure functions -/

@[simp] theorem length_crcBytes (c : Half) : (crcBytes c).length = 2 := rfl

@[simp] theorem length_cksumBytes (bs : List Byte) : (cksumBytes bs).length = 2 := rfl

@[simp] theorem length_frameCore (p : List Byte) (sa : Byte) : (frameCore p sa).length = p.length + 2 := by
  simp [frameCore]

@[simp] theorem length_packFrame (p : List Byte) (sa : Byte) : (packFrame p sa).length = p.length + 5 := by
  simp [packFrame]

theorem length_slice (bs : List Byte) (a b : Nat) : (slice bs a b).length = min b bs.length - a := by
  simp [slice]

theorem stuff_append (a b : List Byte) : stuff (a ++ b) = stuff a ++ stuff b := by
  induction a with
  | nil => rfl
  | cons x a ih =>
    simp only [List.cons_append, stuff, ih]
    split <;> rfl

theorem length_stuff_le (bs : List Byte) : (stuff bs).length ≤ 2 * bs.length := by
  induction bs with
  | nil => simp [stuff]
  | cons b bs ih =>
    simp only [stuff]
    split <;> simp only [List.length_cons] <;> omega

theorem le_length_stuff (bs : List Byte) : bs.length ≤ (stuff bs).length := by
  induction bs with
  | nil => simp [stuff]
  | cons b bs ih =>
    simp only [stuff]
    split <;> simp only [List.length_cons] <;> omega

theorem length_packFrameStuffed_le (p : List Byte) (sa : Byte) :
    (packFrameStuffed p sa).length ≤ 2 * p.length + 9 := by
  have := length_stuff_le (frameCore p sa ++ cksumBytes (frameCore p sa))
  simp only [List.length_append, length_frameCore, length_cksumBytes] at this
  simp only [packFrameStuffed, List.length_cons]
  omega

/-- The byte order helpers undo each other (R56). -/
theorem joinBytes_hi_lo (w : Half) : joinBytes (hiByte w) (loByte w) = w := by
  refine BitVec.eq_of_getLsbD_eq fun i hi => ?_
  simp only [joinBytes, hiByte, loByte, BitVec.getLsbD_append, BitVec.getLsbD_extractLsb']
  by_cases h : i < 8
  · simp [h]
  · have h8 : i - 8 < 8 := by omega
    have e : 8 + (i - 8) = i := by omega
    simp [h, h8, e]

@[simp] theorem loByte_joinBytes (hi lo : Byte) : loByte (joinBytes hi lo) = lo := by
  refine BitVec.eq_of_getLsbD_eq fun i h => ?_
  simp only [joinBytes, loByte, BitVec.getLsbD_append, BitVec.getLsbD_extractLsb']
  simp [h]

@[simp] theorem hiByte_joinBytes (hi lo : Byte) : hiByte (joinBytes hi lo) = hi := by
  refine BitVec.eq_of_getLsbD_eq fun i h => ?_
  simp only [joinBytes, hiByte, BitVec.getLsbD_append, BitVec.getLsbD_extractLsb']
  simp [h]

theorem joinBytes_inj {a b c d : Byte} (h : joinBytes a b = joinBytes c d) : a = c ∧ b = d :=
  ⟨by simpa using congrArg hiByte h, by simpa using congrArg loByte h⟩

/-- SEQADDR is its two fields (R36, R140). -/
@[simp] theorem seqByte_fields (b : Byte) : seqByte (seqField b) (addrField b) = b := by
  revert b
  decide

theorem toggleSeq_eq (b : Byte) : toggleSeq b = b ^^^ 0x80 := by
  revert b
  decide

/-! ### What a command writes to OUT -/

theorem writeSeq_nil (m : Memory) : m.writeSeq [] = m := by
  simp [Memory.writeSeq, cellsFrom]

theorem toNat_outLen_setOut {bs : List Byte} (h : bs.length < 65536) (s : State) :
    (s.setOut bs).outLen.toNat = bs.length := by
  simp only [setOut_outLen, BitVec.toNat_ofNat]
  exact Nat.mod_eq_of_lt h

end Sys2Proof.Machine
end

