-- ==== Sys2Proof/Laws/Commands.lean ====
section
/-!
SUPPORT. What each command can answer, said once: if `exec i s` is `.next t`, then one of the listed cases holds. From
these, the parts of the state no command touches (`exec_frame`) and what a command does to OUT (`exec_out`).
-/

namespace Sys2Proof.Machine

/-- CKSUM. -/
theorem execCksum_next {s t : State} (h : execCksum s = .next t) :
    (1024 < s.inLen.toNat ∧ t = (beginCommand 0x01 s).setErr .illegalLength) ∨
    (s.inLen.toNat ≤ 1024 ∧ ∃ p, s.input = some p ∧ t = (beginCommand 0x01 s).setCrc (crc16 p)) := by
  rcases checkInputLength_next h with h | ⟨hl, h⟩
  · exact .inl h
  · obtain ⟨p, hp, h⟩ := consumeInput_next h
    cases h
    exact .inr ⟨hl, p, hp, rfl⟩

/-- CKSUMB. -/
theorem execCksumb_next {s t : State} (h : execCksumb s = .next t) :
    (1024 < s.inLen.toNat ∧ t = (beginCommand 0x02 s).setErr .illegalLength) ∨
    (s.inLen.toNat ≤ 1024 ∧ ∃ p, s.input = some p ∧
      t = ((beginCommand 0x02 s).setCrc (crc16 p)).setOut (cksumBytes p)) := by
  rcases checkInputLength_next h with h | ⟨hl, h⟩
  · exact .inl h
  · obtain ⟨p, hp, h⟩ := consumeInput_next h
    cases h
    exact .inr ⟨hl, p, hp, rfl⟩

/-- STUFF. -/
theorem execStuff_next {s t : State} (h : execStuff s = .next t) :
    (1024 < s.inLen.toNat ∧ t = (beginCommand 0x03 s).setErr .illegalLength) ∨
    (s.inLen.toNat ≤ 1024 ∧ ∃ p, s.input = some p ∧ t = (beginCommand 0x03 s).setOut (stuff p)) := by
  rcases checkInputLength_next h with h | ⟨hl, h⟩
  · exact .inl h
  · obtain ⟨p, hp, h⟩ := consumeInput_next h
    cases h
    exact .inr ⟨hl, p, hp, rfl⟩

/-- The shared part of PACK and PACKS, from any state after the prologue. -/
theorem packWith_next {build : List Byte → List Byte} {sa : Byte} {s1 t : State}
    (h : packWith build sa s1 = .next t) :
    (1024 < s1.inLen.toNat ∧ t = s1.setErr .illegalLength) ∨
    (255 < s1.inLen.toNat ∧ s1.inLen.toNat ≤ 1024 ∧ t = s1.setErr .payloadTooLong) ∨
    (s1.inLen.toNat ≤ 255 ∧ ∃ p, s1.input = some p ∧
      t = (s1.setCrc (crc16 (frameCore p sa))).setOut (build p)) := by
  rcases checkInputLength_next h with h | ⟨hl, h⟩
  · exact .inl h
  · rcases checkPayloadLength_next h with ⟨hg, h⟩ | ⟨hp, h⟩
    · exact .inr (.inl ⟨hg, hl, h⟩)
    · obtain ⟨p, hi, h⟩ := consumeInput_next h
      cases h
      exact .inr (.inr ⟨hp, p, hi, rfl⟩)

/-- The body of UNPACK: the three ways it ends. -/
theorem unpackBody_next {f : List Byte} {s1 t : State} (h : unpackBody f s1 = .next t) :
    (f.getD 0 0 ≠ Config.marker ∧ t = (s1.setHeader (f.getD 0 0) (f.getD 2 0)).setErr .invalidFraming) ∨
    (f.getD 0 0 = Config.marker ∧ receivedChecksum f ≠ expectedChecksum f ∧
      t = (((s1.setHeader (f.getD 0 0) (f.getD 2 0)).setCrc (expectedChecksum f)).setRcv
        (receivedChecksum f)).setErr .checksumMismatch) ∨
    (f.getD 0 0 = Config.marker ∧ receivedChecksum f = expectedChecksum f ∧
      t = (((s1.setHeader (f.getD 0 0) (f.getD 2 0)).setCrc (expectedChecksum f)).setRcv
        (receivedChecksum f)).setOut (framePayload f)) := by
  simp only [unpackBody, raise] at h
  split at h
  · next hm => cases h; exact .inl ⟨hm, rfl⟩
  · next hm =>
    have hm := not_not.1 hm
    split at h
    · next hc => cases h; exact .inr (.inl ⟨hm, hc, rfl⟩)
    · next hc => cases h; exact .inr (.inr ⟨hm, not_not.1 hc, rfl⟩)

/-- UNPACK: too long, too short, or its body on the frame in IN. -/
theorem execUnpack_next {s t : State} (h : execUnpack s = .next t) :
    (1024 < s.inLen.toNat ∧ t = (beginCommand 0x06 s).setErr .illegalLength) ∨
    (s.inLen.toNat < 6 ∧ t = (beginCommand 0x06 s).setErr .frameTooShort) ∨
    (6 ≤ s.inLen.toNat ∧ s.inLen.toNat ≤ 1024 ∧ ∃ f, s.input = some f ∧
      unpackBody f (beginCommand 0x06 s) = .next t) := by
  rcases checkInputLength_next h with h | ⟨hl, h⟩
  · exact .inl h
  · split at h
    · next hs => cases h; exact .inr (.inl ⟨hs, rfl⟩)
    · next hs =>
      obtain ⟨f, hf, h⟩ := consumeInput_next h
      exact .inr (.inr ⟨Nat.le_of_not_lt hs, hl, f, hf, h⟩)

/-- The body of CLASSIFY: the six ways it ends (R153). -/
theorem classifyBody_next {q : List Byte} {s1 t : State} (h : classifyBody q s1 = .next t) :
    (q = [] ∧ t = s1.setErr .emptyPayload) ∨
    (∃ rest, q = 0xF0 :: rest ∧ t = (s1.setResponse 0xF0 (rclass 0xF0)).setOut rest) ∨
    (q = [0xF5] ∧ t = (s1.setResponse 0xF5 (rclass 0xF5)).setErr .cannotProcess) ∨
    (∃ rest, q = 0xF5 :: 0x03 :: rest ∧
      t = ((s1.setResponse 0xF5 (rclass 0xF5)).setSubcode 0x03).setErr .deviceBusy) ∨
    (∃ sub rest, sub ≠ 0x03 ∧ q = 0xF5 :: sub :: rest ∧
      t = ((s1.setResponse 0xF5 (rclass 0xF5)).setSubcode sub).setErr .cannotProcess) ∨
    (∃ code rest, code ≠ 0xF0 ∧ code ≠ 0xF5 ∧ q = code :: rest ∧
      t = (s1.setResponse code (rclass code)).setErr .protocolError) := by
  cases q with
  | nil => cases h; exact .inl ⟨rfl, rfl⟩
  | cons code rest =>
    refine .inr ?_
    simp only [classifyBody, raise] at h
    by_cases hok : code = Config.rcOk
    · rw [if_pos hok] at h
      cases h
      cases hok
      exact .inl ⟨rest, rfl, rfl⟩
    · rw [if_neg hok] at h
      refine .inr ?_
      by_cases hcp : code = Config.rcCannotProcess
      · rw [if_pos hcp] at h
        cases hcp
        cases rest with
        | nil => cases h; exact .inl ⟨rfl, rfl⟩
        | cons sub rest =>
          refine .inr ?_
          simp only at h
          by_cases hb : sub = Config.busySubcode
          · rw [if_pos hb] at h
            cases h
            cases hb
            exact .inl ⟨rest, rfl, rfl⟩
          · rw [if_neg hb] at h
            cases h
            exact .inr (.inl ⟨sub, rest, hb, rfl, rfl⟩)
      · rw [if_neg hcp] at h
        cases h
        exact .inr (.inr (.inr ⟨code, rest, hok, hcp, rfl, rfl⟩))

/-- CLASSIFY: too long (SRC = 0 only), or its body on the payload SRC selects. -/
theorem execClassify_next {src : Src} {s t : State} (h : execClassify src s = .next t) :
    (src = .inBuf ∧ 1024 < s.inLen.toNat ∧ t = (beginCommand 0x07 s).setErr .illegalLength) ∨
    (src = .inBuf ∧ s.inLen.toNat ≤ 1024 ∧ ∃ q, s.input = some q ∧
      classifyBody q (beginCommand 0x07 s) = .next t) ∨
    (src = .outBuf ∧ classifyBody s.snapshot (beginCommand 0x07 s) = .next t) := by
  cases src with
  | inBuf =>
    rcases checkInputLength_next h with ⟨hl, h⟩ | ⟨hl, h⟩
    · exact .inl ⟨rfl, hl, h⟩
    · obtain ⟨q, hq, h⟩ := consumeInput_next h
      exact .inr (.inl ⟨rfl, hl, q, hq, h⟩)
  | outBuf => exact .inr (.inr ⟨rfl, h⟩)

/-- SEQ_NEXT always answers one state. -/
theorem execSeqNext_eq (s : State) :
    execSeqNext s = .next (((beginCommand 0x08 s).setOut [s.seqaddr]).advanceSeq) := by
  simp [execSeqNext]

/-- SEQ_RETRY. -/
theorem execSeqRetry_next {s t : State} (h : execSeqRetry s = .next t) :
    (s.lastV = true ∧ t = (beginCommand 0x09 s).setOut [s.lastseq]) ∨
    (s.lastV = false ∧ t = (beginCommand 0x09 s).setErr .noPriorSequence) := by
  simp only [execSeqRetry, raise] at h
  have hv : (beginCommand 0x09 s).lastV = s.lastV := rfl
  rw [hv] at h
  cases hl : s.lastV with
  | true => rw [hl] at h; cases h; exact .inl ⟨rfl, rfl⟩
  | false => rw [hl] at h; cases h; exact .inr ⟨rfl, rfl⟩

/-! ### All commands at once -/

/-- What the update functions of a command body can have made of a state after the prologue: the error, if any, and the
result and sequence registers may differ, and OUT holds a sequence written from index 0. -/
structure BodyOf (op : Byte) (s t : State) : Prop where
  imm : t.imm = s.imm
  lastop : t.lastop = op
  inLen : t.inLen = s.inLen
  inBuf : t.inBuf = s.inBuf
  bus : t.bus = s.bus
  replies : t.replies = s.replies
  resets : t.resets = s.resets
  epoch : t.epoch = s.epoch + 1
  out : ∃ bs : List Byte, (bs.length ≤ 2048 ∨ bs.length < s.outLen.toNat) ∧
    t.outBuf = s.outBuf.writeSeq bs ∧ t.outLen = BitVec.ofNat 16 bs.length ∧ (t.err ≠ 0x00 → bs = [])

theorem bodyOf_raise (op : Byte) (e : ErrCode) (s : State) : BodyOf op s ((beginCommand op s).setErr e) :=
  ⟨rfl, rfl, rfl, rfl, rfl, rfl, rfl, rfl,
    [], .inl (by simp), by simp [writeSeq_nil], rfl, fun _ => rfl⟩

theorem packWith_bodyOf {op : Byte} {build : List Byte → List Byte} {sa : Byte} {s t : State}
    (hb : ∀ p : List Byte, p.length ≤ 255 → (build p).length ≤ 2048)
    (h : packWith build sa (beginCommand op s) = .next t) : BodyOf op s t := by
  rcases packWith_next h with ⟨-, rfl⟩ | ⟨-, -, rfl⟩ | ⟨hl, p, hp, rfl⟩
  · exact bodyOf_raise op _ s
  · exact bodyOf_raise op _ s
  · have hp := (input_eq_some.1 hp).1
    exact ⟨rfl, rfl, rfl, rfl, rfl, rfl, rfl, rfl,
      build p, .inl (hb p (by omega)), rfl, rfl, fun h => absurd rfl h⟩

theorem classifyBody_bodyOf {q : List Byte} {s t : State} (hq : q.length ≤ 1024 ∨ q.length = s.outLen.toNat)
    (h : classifyBody q (beginCommand 0x07 s) = .next t) : BodyOf 0x07 s t := by
  rcases classifyBody_next h with
    ⟨-, rfl⟩ | ⟨rest, rfl, rfl⟩ | ⟨-, rfl⟩ | ⟨-, -, rfl⟩ | ⟨-, -, -, -, rfl⟩ | ⟨-, -, -, -, -, rfl⟩
  case inr.inl =>
    simp only [List.length_cons] at hq
    exact ⟨rfl, rfl, rfl, rfl, rfl, rfl, rfl, rfl,
      rest, by omega, rfl, rfl, fun h => absurd rfl h⟩
  all_goals
    exact ⟨rfl, rfl, rfl, rfl, rfl, rfl, rfl, rfl,
      [], .inl (by simp), by simp [writeSeq_nil], rfl, fun _ => rfl⟩

/-- Everything the commands have in common. -/
theorem exec_bodyOf {i : Instr} {s t : State} (h : exec i s = .next t) : BodyOf (opcode i) s t := by
  cases i with
  | cksum =>
    rcases execCksum_next h with ⟨-, rfl⟩ | ⟨-, p, -, rfl⟩
    · exact bodyOf_raise _ _ s
    · exact ⟨rfl, rfl, rfl, rfl, rfl, rfl, rfl, rfl,
        [], .inl (by simp), by simp [writeSeq_nil], rfl, fun _ => rfl⟩
  | cksumb =>
    rcases execCksumb_next h with ⟨-, rfl⟩ | ⟨-, p, -, rfl⟩
    · exact bodyOf_raise _ _ s
    · exact ⟨rfl, rfl, rfl, rfl, rfl, rfl, rfl, rfl,
        cksumBytes p, .inl (by simp), rfl, rfl, fun h => absurd rfl h⟩
  | stuff =>
    rcases execStuff_next h with ⟨-, rfl⟩ | ⟨hl, p, hp, rfl⟩
    · exact bodyOf_raise _ _ s
    · have hp := (input_eq_some.1 hp).1
      have := length_stuff_le p
      exact ⟨rfl, rfl, rfl, rfl, rfl, rfl, rfl, rfl,
        stuff p, by omega, rfl, rfl, fun h => absurd rfl h⟩
  | pack sa =>
    refine packWith_bodyOf (fun p hp => ?_) h
    simp only [length_packFrame]
    omega
  | packs sa =>
    refine packWith_bodyOf (fun p hp => ?_) h
    have := length_packFrameStuffed_le p sa
    omega
  | unpack =>
    rcases execUnpack_next h with ⟨-, rfl⟩ | ⟨-, rfl⟩ | ⟨-, hl, f, hf, h⟩
    · exact bodyOf_raise _ _ s
    · exact bodyOf_raise _ _ s
    · have hf := (input_eq_some.1 hf).1
      rcases unpackBody_next h with ⟨-, rfl⟩ | ⟨-, -, rfl⟩ | ⟨-, -, rfl⟩
      · exact ⟨rfl, rfl, rfl, rfl, rfl, rfl, rfl, rfl,
          [], .inl (by simp), by simp [writeSeq_nil], rfl, fun _ => rfl⟩
      · exact ⟨rfl, rfl, rfl, rfl, rfl, rfl, rfl, rfl,
          [], .inl (by simp), by simp [writeSeq_nil], rfl, fun _ => rfl⟩
      · refine ⟨rfl, rfl, rfl, rfl, rfl, rfl, rfl, rfl,
          framePayload f, .inl ?_, rfl, rfl, fun h => absurd rfl h⟩
        simp only [framePayload, length_slice]
        omega
  | classify src =>
    rcases execClassify_next h with ⟨-, -, rfl⟩ | ⟨-, hl, q, hq, h⟩ | ⟨-, h⟩
    · exact bodyOf_raise _ _ s
    · have := (input_eq_some.1 hq).1
      exact classifyBody_bodyOf (.inl (by omega)) h
    · exact classifyBody_bodyOf (.inr (length_snapshot s)) h
  | seqNext =>
    rw [exec, execSeqNext_eq] at h
    cases h
    exact ⟨rfl, rfl, rfl, rfl, rfl, rfl, rfl, rfl,
      [s.seqaddr], .inl (by simp), rfl, rfl, fun h => absurd rfl h⟩
  | seqRetry =>
    rcases execSeqRetry_next h with ⟨-, rfl⟩ | ⟨-, rfl⟩
    · exact ⟨rfl, rfl, rfl, rfl, rfl, rfl, rfl, rfl,
        [s.lastseq], .inl (by simp), rfl, rfl, fun h => absurd rfl h⟩
    · exact bodyOf_raise _ _ s

end Sys2Proof.Machine
end

