-- ==== Sys2Proof/Laws/Decode.lean ====
section
/-!
SUPPORT. The fields of a command word, and that it is its fields.
-/

namespace Sys2Proof

@[simp] theorem opField_cmdWord (op imm : Byte) : opField (cmdWord op imm) = op := by
  refine BitVec.eq_of_getLsbD_eq fun k h => ?_
  simp only [opField, cmdWord, BitVec.getLsbD_append, BitVec.getLsbD_extractLsb']
  simp [h]

@[simp] theorem immField_cmdWord (op imm : Byte) : immField (cmdWord op imm) = imm := by
  refine BitVec.eq_of_getLsbD_eq fun k h => ?_
  simp only [immField, cmdWord, BitVec.getLsbD_append, BitVec.getLsbD_extractLsb']
  simp [h]

/-- A command word is its OP and its IMM (R70). -/
theorem cmdWord_fields (cw : CmdWord) : cmdWord (opField cw) (immField cw) = cw := by
  refine BitVec.eq_of_getLsbD_eq fun k h => ?_
  simp only [cmdWord, opField, immField, BitVec.getLsbD_append, BitVec.getLsbD_extractLsb']
  by_cases h8 : k < 8
  · simp [h8]
  · have e : 8 + (k - 8) = k := by omega
    have h8' : k - 8 < 8 := by omega
    simp [h8, h8', e]

@[simp] theorem srcField_bit (src : Src) : srcField src.bit = src := by
  cases src <;> rfl

end Sys2Proof
end

