-- ==== Sys2Proof/Laws/Step.lean ====
section
/-!
SUPPORT. What one access of the host can do, said once.
-/

namespace Sys2Proof.Machine

/-- A command write runs the decoded command, or ILLEGAL_COMMAND. -/
theorem issue_cases (v : Byte) (s : State) :
    (∃ i, decode (cmdWord v s.imm) = .ok i ∧ issue v s = exec i s) ∨
    (∃ op, decode (cmdWord v s.imm) = .error (.reservedOpcode op) ∧ issue v s = illegalCommand op s) := by
  cases h : decode (cmdWord v s.imm) with
  | ok i => exact .inl ⟨i, rfl, by simp [issue, h]⟩
  | error e =>
    obtain ⟨op⟩ := e
    exact .inr ⟨op, rfl, by simp [issue, h]⟩

/-- The write column of R52: what a write of `v` to a location other than CMD leaves. -/
def storedAt (l : Loc) (v : Byte) (s : State) : State :=
  match l with
  | .imm => { s with imm := v }
  | .inLenLo => { s with inLen := joinBytes (hiByte s.inLen) v }
  | .inLenHi => { s with inLen := joinBytes v (loByte s.inLen) }
  | .seqaddr => { s with seqaddr := v }
  | .inByte i => { s with inBuf := s.inBuf.write i v }
  | _ => s

theorem writeByte_eq (l : Loc) (v : Byte) (s : State) :
    writeByte l v s = if l = .cmd then issue v s else .next (storedAt l v s) := by
  cases l <;> simp [writeByte, storedAt]

theorem step_read {s : State} {n : Nat} {off : Offset} {rest : List BusOp} (h : s.bus = .read n off :: rest) :
    step s = hostRead n off { s with bus := rest } := by
  simp only [step, h]
  rfl

theorem step_write {s : State} {off : Offset} {v : Byte} {rest : List BusOp} (h : s.bus = .write off [v] :: rest) :
    step s = writeByte (locAt off) v { s with bus := rest } := by
  simp only [step, h]
  rfl

theorem step_reset {s : State} {rest : List BusOp} (h : s.bus = .reset :: rest) :
    step s = .next (resetEvent { s with bus := rest }) := by
  simp only [step, h]
  rfl

theorem steps_succ {s t : State} {k : Nat} (h : step s = .next t) : steps (k + 1) s = steps k t := by
  rw [steps, h]

theorem steps_add {s t : State} {j : Nat} (h : steps j s = .next t) (k : Nat) : steps (j + k) s = steps k t := by
  induction j generalizing s with
  | zero => cases h; rw [Nat.zero_add]
  | succ j ih =>
    rw [steps] at h
    rw [Nat.succ_add, steps]
    split at h
    · exact ih h
    · cases h
    · cases h

theorem run_succ_next {M : Host.Core} {s t : M.State} (k : Nat) (h : M.step s = .next t) :
    M.run (k + 1) s = M.run k t := by
  simp [Host.Core.run, h]

theorem run_succ_fault {M : Host.Core} {s : M.State} {f : M.Fault} (k : Nat) (h : M.step s = .fault f) :
    M.run (k + 1) s = .fault f := by
  simp [Host.Core.run, h]

theorem run_succ_refused {M : Host.Core} {s : M.State} {r : M.Refusal} (k : Nat) (h : M.step s = .refused r) :
    M.run (k + 1) s = .refused r := by
  simp [Host.Core.run, h]

/-- The host's own run of the machine is `steps`. -/
theorem run_core (k : Nat) (s : State) : Host.Core.run core k s = steps k s := by
  induction k generalizing s with
  | zero => rfl
  | succ k ih =>
    rw [steps]
    cases h : step s with
    | next t => exact (run_succ_next (M := core) k h).trans (ih t)
    | fault f => exact run_succ_fault (M := core) k h
    | refused r => exact run_succ_refused (M := core) k h

/-- One step: idle, a read, a write of one byte, RESET, or a refused size. -/
theorem step_cases (s : State) :
    (s.bus = [] ∧ step s = .next s) ∨
    (∃ off rest, s.bus = .read 1 off :: rest ∧
      step s = .next { s with bus := rest, replies := s.replies ++ [readByte (locAt off) { s with bus := rest }] }) ∨
    (∃ off v rest, s.bus = .write off [v] :: rest ∧ locAt off = .cmd ∧ step s = issue v { s with bus := rest }) ∨
    (∃ off v rest, s.bus = .write off [v] :: rest ∧ locAt off ≠ .cmd ∧
      step s = .next (storedAt (locAt off) v { s with bus := rest })) ∨
    (∃ rest, s.bus = .reset :: rest ∧ step s = .next (resetEvent { s with bus := rest })) ∨
    (∃ op rest n, s.bus = op :: rest ∧ op.wf = false ∧ step s = .refused (.accessSize n)) := by
  cases hb : s.bus with
  | nil => exact .inl ⟨rfl, by simp [step, hb]⟩
  | cons op rest =>
    refine .inr ?_
    cases op with
    | read n off =>
      by_cases hn : n = 1
      · subst hn
        exact .inl ⟨off, rest, rfl, by simp [step, hb, busStep, hostRead]⟩
      · exact .inr (.inr (.inr (.inr ⟨_, rest, n, rfl, by simp [BusOp.wf, hn], by
          simp [step, hb, busStep, hostRead, hn]⟩)))
    | write off data =>
      match data with
      | [v] =>
        by_cases hc : locAt off = .cmd
        · exact .inr (.inl ⟨off, v, rest, rfl, hc, by simp [step, hb, busStep, hostWrite, writeByte_eq, hc]⟩)
        · exact .inr (.inr (.inl ⟨off, v, rest, rfl, hc, by simp [step, hb, busStep, hostWrite, writeByte_eq, hc]⟩))
      | [] =>
        exact .inr (.inr (.inr (.inr ⟨_, rest, 0, rfl, rfl, by simp [step, hb, busStep, hostWrite]⟩)))
      | a :: b :: l =>
        exact .inr (.inr (.inr (.inr ⟨_, rest, l.length + 2, rfl, by simp [BusOp.wf], by
          simp [step, hb, busStep, hostWrite]⟩)))
    | reset => exact .inr (.inr (.inr (.inl ⟨rest, rfl, by simp [step, hb, busStep]⟩)))

/-- No register is a byte of a buffer (R52). -/
theorem registerAt_ne_buffer (a i : Nat) : registerAt a ≠ .inByte i ∧ registerAt a ≠ .outByte i := by
  unfold registerAt
  split <;> simp

/-- The three ranges of the window (R52). -/
theorem locAt_register {off : Offset} (h : off.toNat < 0x400) : locAt off = registerAt off.toNat := if_pos h

theorem locAt_in {off : Offset} (h : 0x400 ≤ off.toNat) (h' : off.toNat < 0x800) :
    locAt off = .inByte (off.toNat - 0x400) := by
  rw [locAt, if_neg (Nat.not_lt.2 h), if_pos h']

theorem locAt_out {off : Offset} (h : 0x800 ≤ off.toNat) : locAt off = .outByte (off.toNat - 0x800) := by
  rw [locAt, if_neg (by omega), if_neg (Nat.not_lt.2 h)]

/-- The index of an IN location is below 1024 (R52). -/
theorem locAt_inByte {off : Offset} {i : Nat} (h : locAt off = .inByte i) :
    i < 1024 ∧ off.toNat = 0x400 + i := by
  rcases Nat.lt_or_ge off.toNat 0x400 with h1 | h1
  · rw [locAt_register h1] at h
    exact absurd h (registerAt_ne_buffer _ _).1
  · rcases Nat.lt_or_ge off.toNat 0x800 with h2 | h2
    · rw [locAt_in h1 h2] at h
      have := Loc.inByte.inj h
      omega
    · rw [locAt_out h2] at h
      exact nomatch h

theorem registerAt_cmd {a : Nat} (h : registerAt a = .cmd) : a = 1 := by
  unfold registerAt at h
  split at h <;> first | rfl | cases h

/-- CMD is at offset 0x001 only (R52, R71). -/
theorem locAt_cmd {off : Offset} : locAt off = .cmd ↔ off = 0x001 := by
  refine ⟨fun h => BitVec.eq_of_toNat_eq ?_, fun h => h ▸ rfl⟩
  rcases Nat.lt_or_ge off.toNat 0x400 with h1 | h1
  · rw [locAt_register h1] at h
    exact registerAt_cmd h
  · rcases Nat.lt_or_ge off.toNat 0x800 with h2 | h2
    · rw [locAt_in h1 h2] at h
      exact nomatch h
    · rw [locAt_out h2] at h
      exact nomatch h

/-- SEQADDR is at offset 0x012 only (R52). -/
theorem locAt_seqaddr {off : Offset} : locAt off = .seqaddr ↔ off = 0x012 := by
  have hr : ∀ a, registerAt a = .seqaddr → a = 0x012 := by
    intro a h
    unfold registerAt at h
    split at h <;> first | rfl | cases h
  refine ⟨fun h => BitVec.eq_of_toNat_eq ?_, fun h => h ▸ rfl⟩
  rcases Nat.lt_or_ge off.toNat 0x400 with h1 | h1
  · rw [locAt_register h1] at h
    exact hr _ h
  · rcases Nat.lt_or_ge off.toNat 0x800 with h2 | h2
    · rw [locAt_in h1 h2] at h
      exact nomatch h
    · rw [locAt_out h2] at h
      exact nomatch h

end Sys2Proof.Machine
end

