-- ==== Sys2Proof/Laws/PerInstr.lean ====
section
/-!
SUPPORT. A statement per command, over its syntax: its encoding is the one its row of the opcode table fixes.
-/

namespace Sys2Proof.Laws.EncodingInTable

/-- The encoding of a command matches the row of its mnemonic, and its don't-care bits are 0. -/
def Statement (i : Instr) : Prop :=
  (∃ row ∈ opcodeTable, row.mnemonic = mnemonic i ∧ encode i &&& row.mask = row.bits) ∧
  encode i &&& significantMask i = encode i

theorem cksum : Statement .cksum := by unfold Statement; decide

theorem cksumb : Statement .cksumb := by unfold Statement; decide

theorem stuff : Statement .stuff := by unfold Statement; decide

theorem pack (sa : Byte) : Statement (.pack sa) := by revert sa; unfold Statement; decide

theorem packs (sa : Byte) : Statement (.packs sa) := by revert sa; unfold Statement; decide

theorem unpack : Statement .unpack := by unfold Statement; decide

theorem classify (src : Src) : Statement (.classify src) := by cases src <;> (unfold Statement; decide)

theorem seqNext : Statement .seqNext := by unfold Statement; decide

theorem seqRetry : Statement .seqRetry := by unfold Statement; decide

end Sys2Proof.Laws.EncodingInTable
end

