-- ==== Sys2Proof/Tests/Slice0.lean ====
section
/-!
SUPPORT. The model's own tests. Every expected value comes from the spec: from the vectors of `95_test_vectors.md` (S1 to
S20, V1 to V75), or from the encodings of R73, the map of R52 and the expansions of R79 and R80, written out. Then one
witness for each statement that has hypotheses.
-/

namespace Sys2Proof.Tests

open Sys2Proof.Machine Sys2Proof.Claims

/-! ### Small states -/

/-- The reset state with the input sequence `p` loaded by the host. -/
def withInput (p : List Byte) : State :=
  { State.reset with inLen := BitVec.ofNat 16 p.length, inBuf := cellsFrom 0 p }

/-- The reset state after a command whose output was `q`. -/
def withOutput (q : List Byte) : State :=
  { State.reset with outLen := BitVec.ofNat 16 q.length, outBuf := cellsFrom 0 q }

/-- The reset state with IN_LEN = `n` and no byte of IN written. -/
def withLength (n : Half) : State := { State.reset with inLen := n }

/-- The reset state with host accesses pending. -/
def withBus (ops : List BusOp) : State := { State.reset with bus := ops }

/-- A state in which every readable location of R52 holds a byte of its own. -/
def probe : State :=
  { State.reset with
    imm := 0xA0, lastop := 0xA1, err := 0x0A, ctxv := 0x1F, crc := 0xA5A4, rcv := 0xA7A6, fbyte := 0xA8, flen := 0xA9,
    rcode := 0xAA, rclass := 0x0F, subcode := 0xAC, inLen := 0xAFAE, outLen := 0x0800, seqaddr := 0xB2, lastseq := 0xB3,
    seqstat := 0x01, inBuf := [(0, 0xC0), (1023, 0xC1)], outBuf := [(0, 0xD0), (2047, 0xD1)] }

/-- What `f` reads in the next state, if there is one. -/
def after {α : Type} (r : Result) (f : State → α) : Option α :=
  match r with
  | .next t => some (f t)
  | .fault _ => none
  | .refused _ => none

theorem read_cellsFrom_zero (p : List Byte) (i : Nat) (h : i < p.length) :
    Memory.read (cellsFrom 0 p) i = some p[i] := by
  have e := read_cellsFrom_append 0 p [] i
  rw [List.append_nil, dif_pos ⟨Nat.zero_le i, h⟩] at e
  exact e

theorem inputIs_withInput {p : List Byte} (h : p.length < 65536) : InputIs (withInput p) p := by
  refine ⟨?_, read_cellsFrom_zero p⟩
  simp [withInput, Nat.mod_eq_of_lt h]

theorem outputHolds_withOutput {q : List Byte} (h : q.length < 65536) : OutputHolds (withOutput q) q := by
  refine ⟨?_, read_cellsFrom_zero q⟩
  simp [withOutput, Nat.mod_eq_of_lt h]

theorem inputIs_replicate (n : Nat) (b : Byte) (h : n < 65536) :
    InputIs (withInput (List.replicate n b)) (List.replicate n b) :=
  inputIs_withInput (by rw [List.length_replicate]; exact h)

theorem outputHolds_replicate (n : Nat) (b : Byte) (h : n < 65536) :
    OutputHolds (withOutput (List.replicate n b)) (List.replicate n b) :=
  outputHolds_withOutput (by rw [List.length_replicate]; exact h)

/-! ### Decoding: words written out from the patterns of R73 -/

theorem test_decode_cksum : decode 0b0000000100000000 = .ok .cksum := rfl
theorem test_decode_cksumb : decode 0b0000001000000000 = .ok .cksumb := rfl
theorem test_decode_stuff : decode 0b0000001100000000 = .ok .stuff := rfl
theorem test_decode_pack : decode 0b0000010010000001 = .ok (.pack 0b10000001) := rfl
theorem test_decode_packs : decode 0b0000010101111111 = .ok (.packs 0b01111111) := rfl
theorem test_decode_unpack : decode 0b0000011000000000 = .ok .unpack := rfl
theorem test_decode_classify_in : decode 0b0000011100000000 = .ok (.classify .inBuf) := rfl
theorem test_decode_classify_out : decode 0b0000011100000001 = .ok (.classify .outBuf) := rfl
theorem test_decode_seqNext : decode 0b0000100000000000 = .ok .seqNext := rfl
theorem test_decode_seqRetry : decode 0b0000100100000000 = .ok .seqRetry := rfl

/-- V14 (IMM = 0xA5 ignored), V58 (IMM = 0xFF ignored), V73 (IMM[7:1] ignored). -/
theorem test_decode_ignored_bits :
    decode 0b0000000110100101 = .ok .cksum ∧ decode 0b0000100011111111 = .ok .seqNext ∧
    decode 0b0000011111111111 = .ok (.classify .outBuf) := ⟨rfl, rfl, rfl⟩

/-- R74: 0x00 and 0x0A to 0xFF are reserved. -/
theorem test_decode_reserved :
    decode 0b0000000000000000 = .error (.reservedOpcode 0x00) ∧
    decode 0b0000101011110000 = .error (.reservedOpcode 0x0A) ∧
    decode 0b1111111111111111 = .error (.reservedOpcode 0xFF) := ⟨rfl, rfl, rfl⟩

/-- No two rows of the opcode table match one word. -/
theorem test_rows_disjoint :
    opcodeTable.Pairwise (fun a b => a.bits &&& (a.mask &&& b.mask) ≠ b.bits &&& (a.mask &&& b.mask)) := by decide

theorem test_decodeTableWord :
    decodeTableWord 16 0x04AB = some (.pack 0xAB) ∧ decodeTableWord 16 0x0700 = some (.classify .inBuf) ∧
    decodeTableWord 16 0x0A00 = none ∧ decodeTableWord 16 0x0000 = none := by decide

/-- The very next step runs the word placed: PACK of an empty payload with IMM 0x00 (V22). -/
theorem test_withFetchWord :
    after (step (State.reset.withFetchWord 16 0x0400)) (fun t => (t.lastop, t.imm, t.crc, t.outLen, t.bus)) =
      some (0x04, 0x00, 0x800D, 5, []) := by decide +kernel

/-! ### Well-formedness: each check refuses an ill-formed term (R55, R39, R80) -/

theorem test_wf_refuses_wide_read : (BusOp.read 2 0x004).wf = false := by decide
theorem test_wf_refuses_empty_read : (BusOp.read 0 0x004).wf = false := by decide
theorem test_wf_refuses_wide_write : (BusOp.write 0x00E [0x01, 0x00]).wf = false := by decide
theorem test_wf_refuses_empty_write : (BusOp.write 0x00E []).wf = false := by decide
theorem test_wf_refuses_long_loadin : (Stmt.loadin (List.replicate 1025 0x00)).wf = false := by
  rw [Stmt.wf, List.length_replicate]; decide
theorem test_wf_accepts :
    (BusOp.read 1 0xFFF).wf = true ∧ (BusOp.write 0x001 [0x08]).wf = true ∧ (Stmt.loadin [0x21]).wf = true := by decide
/-- An ill-formed access is what the step refuses (U4). -/
theorem test_step_refuses_wide_write :
    step (withBus [.write 0x00E [0x01, 0x00]]) = .refused (.accessSize 2) := rfl

/-! ### The commands, one step each -/

/-- S1. -/
theorem test_cksum :
    after (exec .cksum (withInput [0x00, 0x01, 0x21])) (fun t => (t.crc, t.ctxv, t.outLen)) = some (0x08C6, 0x01, 0) := by
  decide +kernel

/-- V12: no byte of IN is read. -/
theorem test_cksum_illegal_length :
    after (exec .cksum (withLength 0x0401)) (fun t => (t.err, t.crc, t.ctxv)) = some (0x0D, 0x0000, 0x00) := by decide +kernel

/-- S6. -/
theorem test_cksumb :
    after (exec .cksumb (withInput [0x80, 0x02, 0x06, 0x07])) (fun t => (t.outBuf, t.outLen)) =
      some ([(0, 0x21), (1, 0x94)], 2) := by decide +kernel

/-- V2. -/
theorem test_cksumb_empty :
    after (exec .cksumb (withInput [])) (fun t => (t.outBuf, t.crc)) = some ([(0, 0xFF), (1, 0xFF)], 0xFFFF) := by
  decide +kernel

/-- S13. -/
theorem test_stuff :
    after (exec .stuff (withInput [0x7F, 0x01, 0xF5, 0xF5])) (fun t => (t.snapshot, t.ctxv)) =
      some ([0x7F, 0x7F, 0x01, 0xF5, 0xF5], 0x00) := by decide +kernel

/-- V19. -/
theorem test_stuff_neighbours :
    after (exec .stuff (withInput [0x7E, 0x7F, 0x80])) State.snapshot = some [0x7E, 0x7F, 0x7F, 0x80] := by decide +kernel

/-- S8. -/
theorem test_pack :
    after (exec (.pack 0x80) (withInput [0x06, 0x06])) (fun t => (t.snapshot, t.crc)) =
      some ([0x7F, 0x80, 0x02, 0x06, 0x06, 0x24, 0x14], 0x1424) := by decide +kernel

/-- V26. -/
theorem test_pack_too_long :
    after (exec (.pack 0x00) (withLength 0x0100)) (fun t => (t.err, t.ctxv, t.outLen)) = some (0x0A, 0x00, 0) := by
  decide +kernel

/-- V30: seqAddr doubled, leading marker not. -/
theorem test_packs :
    after (exec (.packs 0x7F) (withInput [0x01])) (fun t => (t.snapshot, t.crc)) =
      some ([0x7F, 0x7F, 0x7F, 0x01, 0x01, 0x0A, 0x0E], 0x0E0A) := by decide +kernel

/-- V31: a checksum byte doubled. -/
theorem test_packs_checksum_byte :
    after (exec (.packs 0x00) (withInput [0xEA])) State.snapshot =
      some [0x7F, 0x00, 0x01, 0xEA, 0x7F, 0x7F, 0x8A] := by decide +kernel

/-- V43: the Length byte is not checked. -/
theorem test_unpack :
    after (exec .unpack (withInput [0x7F, 0x00, 0x05, 0x21, 0xC5, 0x90]))
      (fun t => (t.err, t.ctxv, t.snapshot, t.flen, t.crc, t.rcv)) =
      some (0x00, 0x07, [0x21], 0x05, 0x90C5, 0x90C5) := by decide +kernel

/-- V40: checksum bytes swapped. -/
theorem test_unpack_swapped_checksum :
    after (exec .unpack (withInput [0x7F, 0x00, 0x01, 0x21, 0x08, 0xC6]))
      (fun t => (t.err, t.ctxv, t.crc, t.rcv, t.outLen)) = some (0x03, 0x07, 0x08C6, 0xC608, 0) := by decide +kernel

/-- V66: sub-code 0x00. -/
theorem test_classify_in :
    after (exec (.classify .inBuf) (withInput [0xF5, 0x00])) (fun t => (t.err, t.rcode, t.rclass, t.subcode, t.ctxv)) =
      some (0x06, 0xF5, 0x04, 0x00, 0x18) := by decide +kernel

/-- V73: the payload is the OUT of the command before. -/
theorem test_classify_out :
    after (exec (.classify .outBuf) (withOutput [0xF0, 0x7F, 0x7F])) (fun t => (t.err, t.rcode, t.snapshot)) =
      some (0x00, 0xF0, [0x7F, 0x7F]) := by decide +kernel

/-- V57. -/
theorem test_seqNext :
    after (exec .seqNext { State.reset with seqaddr := 0xFF, lastseq := 0x7F, seqstat := 0x01 })
      (fun t => (t.snapshot, t.seqaddr, t.lastseq, t.seqstat)) = some ([0xFF], 0x7F, 0xFF, 0x01) := by decide +kernel

/-- V55. -/
theorem test_seqRetry :
    after (exec .seqRetry { State.reset with seqaddr := 0x7F, lastseq := 0x85, seqstat := 0x01 })
      (fun t => (t.snapshot, t.seqaddr, t.lastseq)) = some ([0x85], 0x7F, 0x85) := by decide +kernel

/-- V48. -/
theorem test_seqRetry_none :
    after (exec .seqRetry State.reset) (fun t => (t.err, t.outLen, t.seqstat)) = some (0x0B, 0, 0x00) := by decide +kernel

/-! ### The assembler (R79, R80) -/

theorem test_expand :
    expand (.pack 0x80) = [.write 0x000 [0x80], .write 0x001 [0x04]] ∧
    expand (.classify .outBuf) = [.write 0x000 [0x01], .write 0x001 [0x07]] ∧
    expand (.setseq 0x05) = [.write 0x012 [0x05]] ∧
    expand (.loadin [0x21, 0x22]) =
      [.write 0x400 [0x21], .write 0x401 [0x22], .write 0x00E [0x02], .write 0x00F [0x00]] := by decide

/-! ### Witnesses: concrete states and operands that meet the hypotheses of each statement -/

theorem witness_DecodeEncodeAgree :
    Instr.wf (.pack 0xFF) = true ∧ Instr.wf (.classify .outBuf) = true ∧ Instr.wf .seqRetry = true := by decide

/-- One word for each side of the equivalence. -/
theorem witness_DecodeIsExactlyTheOpcodeTable :
    decode 0x05FF = .ok (.packs 0xFF) ∧ (0x05FF : CmdWord) &&& 0xFF00 = 0x0500 ∧
    immField 0x05FF &&& operandMask (.packs 0xFF) = immediate (.packs 0xFF) := ⟨rfl, by decide, by decide⟩

theorem witness_StepRunsTheIssuedCommand :
    (withBus [.write 0x001 [0x09], .reset]).bus = .write 0x001 [0x09] :: [.reset] ∧
    decode (0x09#8 ++ (withBus [.write 0x001 [0x09], .reset]).imm) = .ok .seqRetry := ⟨rfl, rfl⟩

/-- Both ends of each reserved range, and both ends of the listed one. -/
theorem witness_ReservedOpcodeIsIllegalCommand :
    (withBus [.write 0x001 [0x00]]).bus = .write 0x001 [0x00] :: [] ∧ reservedOpcode 0x00 = true ∧
    (withBus [.write 0x001 [0x0A]]).bus = .write 0x001 [0x0A] :: [] ∧ reservedOpcode 0x0A = true ∧
    (withBus [.write 0x001 [0xFF]]).bus = .write 0x001 [0xFF] :: [] ∧ reservedOpcode 0xFF = true ∧
    reservedOpcode 0x01 = false ∧ reservedOpcode 0x09 = false := by decide

theorem witness_IdleBlockHoldsItsState : (withInput [0x21]).bus = [] := rfl

/-- A state on each side: one that is refused, one that is not. -/
theorem witness_StepRefusesExactlyOtherSizes :
    step (withBus [.read 2 0x004]) = .refused (.accessSize 2) ∧ (BusOp.read 2 0x004).wf = false ∧
    after (step (withBus [.read 1 0x004])) State.replies = some [0x00] := ⟨rfl, rfl, by decide +kernel⟩

/-- V15 on one side; UNPACK of 5 unwritten bytes (V36) on the other. -/
theorem witness_StepFaultsExactlyOnUnwrittenInput :
    step { withLength 1 with bus := [.write 0x001 [0x01]] } = .fault .uninitInput ∧
    after (step { withLength 5 with bus := [.write 0x001 [0x06]] }) State.err = some 0x01 := ⟨rfl, by decide +kernel⟩

/-- One state for each command that reads IN, at the ends of the lengths at which it does. -/
theorem witness_UnwrittenInputFaults :
    (consumesAt .cksum (withLength 1).inLen.toNat = true ∧ 0 < (withLength 1).inLen.toNat) ∧
    (consumesAt .cksumb (withLength 1024).inLen.toNat = true ∧ 1023 < (withLength 1024).inLen.toNat) ∧
    (consumesAt .stuff (withLength 1024).inLen.toNat = true ∧ 0 < (withLength 1024).inLen.toNat) ∧
    (consumesAt (.pack 0x00) (withLength 255).inLen.toNat = true ∧ 254 < (withLength 255).inLen.toNat) ∧
    (consumesAt (.packs 0x00) (withLength 255).inLen.toNat = true ∧ 254 < (withLength 255).inLen.toNat) ∧
    (consumesAt .unpack (withLength 6).inLen.toNat = true ∧ 5 < (withLength 6).inLen.toNat) ∧
    (consumesAt (.classify .inBuf) (withLength 1).inLen.toNat = true ∧ 0 < (withLength 1).inLen.toNat) ∧
    ∀ n, ((withLength n).inBuf.read 0 = none ∧ (withLength n).inBuf.read 5 = none ∧
      (withLength n).inBuf.read 254 = none ∧ (withLength n).inBuf.read 1023 = none) := by
  refine ⟨by decide, by decide, by decide, by decide, by decide, by decide, by decide, fun _ => ⟨rfl, rfl, rfl, rfl⟩⟩

/-- A written input for the commands that use IN, and the reset state. -/
theorem witness_EveryCommandCompletes :
    Written (withInput [0xF5, 0x03, 0xFF]) ∧ Written State.reset ∧ usesIn (.classify .outBuf) = false := by
  refine ⟨fun a h => ?_, fun a h => absurd h (by simp [State.reset]), rfl⟩
  have hi := inputIs_withInput (p := [0xF5, 0x03, 0xFF]) (by decide)
  have hl : a < 3 := h
  rw [hi.2 a hl]
  rfl

/-- Every clause at the ends of its range (R52): what the host reads at each offset of `probe`. -/
theorem witness_HostReadReturnsTheMappedByte :
    ([0x000, 0x001, 0x002, 0x003, 0x004, 0x005, 0x006, 0x007, 0x008, 0x009, 0x00A, 0x00B, 0x00C, 0x00D, 0x00E, 0x00F,
      0x010, 0x011, 0x012, 0x013, 0x014, 0x015, 0x3FF, 0x400, 0x7FF, 0x800, 0xFFF] : List Offset).map
        (fun off => after (step { probe with bus := [.read 1 off] }) State.replies) =
    ([0xA0, 0xA1, 0x0A, 0x1F, 0xA4, 0xA5, 0xA6, 0xA7, 0xA8, 0xA9, 0xAA, 0x0F, 0xAC, 0x00, 0xAE, 0xAF,
      0x00, 0x08, 0xB2, 0xB3, 0x01, 0x00, 0x00, 0xC0, 0xC1, 0xD0, 0xD1] : List Byte).map (fun v => some [v]) := by
  decide +kernel

theorem witness_RepeatedReadsAgree :
    (withBus [.read 1 0x800, .read 1 0x800]).bus = .read 1 0x800 :: .read 1 0x800 :: [] := rfl

/-- The ends of every read-only and reserved range. -/
theorem witness_ReadOnlyAndReservedWritesAreIgnored :
    (([0x002, 0x00D, 0x010, 0x011, 0x013, 0x3FF, 0x800, 0xFFF] : List Offset).all fun off =>
      ignoresWrites off && (step { probe with bus := [.write off [0x55]] } |> (after · id)) == some probe) = true ∧
    (([0x000, 0x001, 0x00E, 0x00F, 0x012, 0x400, 0x7FF] : List Offset).all fun off => !ignoresWrites off) = true ∧
    (([0x00D, 0x015, 0x3FF] : List Offset).all reservedOffset) = true ∧
    (([0x00C, 0x00E, 0x014, 0x400] : List Offset).all fun off => !reservedOffset off) = true := by decide +kernel

/-- Each clause: IMM, the two bytes of IN_LEN, and the ends of IN. -/
theorem witness_HostWritesStoreTheirByte :
    after (step { probe with bus := [.write 0x000 [0x55]] }) State.imm = some 0x55 ∧
    after (step { probe with bus := [.write 0x00E [0x55]] }) State.inLen = some 0xAF55 ∧
    after (step { probe with bus := [.write 0x00F [0x55]] }) State.inLen = some 0x55AE ∧
    after (step { probe with bus := [.write 0x400 [0x55]] }) State.inBuf = some [(0, 0x55), (1023, 0xC1)] ∧
    after (step { probe with bus := [.write 0x7FF [0x55]] }) State.inBuf = some [(0, 0xC0), (1023, 0x55)] := by
  decide +kernel

/-- V54. -/
theorem witness_SeqaddrWriteSetsFlagAndAddress :
    (withBus [.write 0x012 [0x7F]]).bus = .write 0x012 [0x7F] :: [] ∧
    after (step (withBus [.write 0x012 [0x7F]])) State.seqaddr = some 0x7F := ⟨rfl, by decide +kernel⟩

theorem witness_ResetStateIsAsListed : ({ probe with bus := [.reset] } : State).bus = .reset :: [] := rfl

theorem witness_WindowSitsAtBase : (4095 : Nat) < 4096 ∧ ((7 : Nat) < 8 ∨ 8 + 4096 ≤ 7) ∧
    ((8 + 4096 : Nat) < 8 ∨ 8 + 4096 ≤ 8 + 4096) := by decide

/-- Input lengths 0 and 1024 for the clauses on completion, 1025 for the clause on ILLEGAL_LENGTH. The same states serve
CKSUM, CKSUMB, STUFF, UNPACK and CLASSIFY. -/
theorem witness_CksumComputesTheChecksum :
    (([] : List Byte).length ≤ 1024 ∧ InputIs (withInput []) []) ∧
    ((List.replicate 1024 (0x7F : Byte)).length ≤ 1024 ∧
      InputIs (withInput (List.replicate 1024 0x7F)) (List.replicate 1024 0x7F)) ∧
    1024 < (withLength 0x0401).inLen.toNat :=
  ⟨⟨by decide, inputIs_withInput (by decide)⟩, ⟨Nat.le_of_eq List.length_replicate, inputIs_replicate _ _ (by decide)⟩, by decide⟩

theorem witness_CksumbEmitsTheChecksumLowByteFirst :
    (([0x00, 0x01, 0x21] : List Byte).length ≤ 1024 ∧ InputIs (withInput [0x00, 0x01, 0x21]) [0x00, 0x01, 0x21]) ∧
    1024 < (withLength 0xFFFF).inLen.toNat :=
  ⟨⟨by decide, inputIs_withInput (by decide)⟩, by decide⟩

theorem witness_ChecksumIsCarryLess : ([0x80, 0x01] : List Byte).length = ([0x00, 0x7F] : List Byte).length := rfl

theorem witness_ChecksumSeesAnySingleByteChange : (0x20 : Byte) ≠ 0x21 := by decide

theorem witness_StuffDoublesEachMarker : (0x7E : Byte) ≠ 0x7F ∧ (0x80 : Byte) ≠ 0x7F := by decide

theorem witness_StuffIsInjective : stuff [0x7F, 0x01] = stuff [0x7F, 0x01] := rfl

theorem witness_StuffWritesTheStuffedInput :
    ((List.replicate 1024 (0x7F : Byte)).length ≤ 1024 ∧
      InputIs (withInput (List.replicate 1024 0x7F)) (List.replicate 1024 0x7F)) ∧
    1024 < (withLength 0x0401).inLen.toNat :=
  ⟨⟨Nat.le_of_eq List.length_replicate, inputIs_replicate _ _ (by decide)⟩, by decide⟩

/-- Payload lengths 0 and 255; 256 and 1024 for PAYLOAD_TOO_LONG; 1025 for ILLEGAL_LENGTH. -/
theorem witness_PackFramesThePayload :
    (([] : List Byte).length ≤ 255 ∧ InputIs (withInput []) []) ∧
    ((List.replicate 255 (0x00 : Byte)).length ≤ 255 ∧
      InputIs (withInput (List.replicate 255 0x00)) (List.replicate 255 0x00)) ∧
    1024 < (withLength 0x0401).inLen.toNat ∧
    (255 < (withLength 0x0100).inLen.toNat ∧ (withLength 0x0100).inLen.toNat ≤ 1024) ∧
    (255 < (withLength 0x0400).inLen.toNat ∧ (withLength 0x0400).inLen.toNat ≤ 1024) :=
  ⟨⟨by decide, inputIs_withInput (by decide)⟩, ⟨Nat.le_of_eq List.length_replicate, inputIs_replicate _ _ (by decide)⟩, by decide, by decide, by decide⟩

/-- The same states, and a frame with no MARKER after the first byte (V33). -/
theorem witness_PacksStuffsAfterTheMarker :
    ((List.replicate 255 (0x7F : Byte)).length ≤ 255 ∧
      InputIs (withInput (List.replicate 255 0x7F)) (List.replicate 255 0x7F)) ∧
    1024 < (withLength 0x0401).inLen.toNat ∧
    (255 < (withLength 0x0100).inLen.toNat ∧ (withLength 0x0100).inLen.toNat ≤ 1024) ∧
    0x7F ∉ (packFrame [0x06, 0x06] 0x80).tail :=
  ⟨⟨Nat.le_of_eq List.length_replicate, inputIs_replicate _ _ (by decide)⟩, by decide, by decide, by decide +kernel⟩

/-- The shortest frame (V41). -/
theorem witness_UnpackAcceptsAValidFrame :
    let f : List Byte := [0x7F, 0x00, 0x01, 0x21, 0xC6, 0x08]
    6 ≤ f.length ∧ f.length ≤ 1024 ∧ InputIs (withInput f) f ∧ f[0]? = some 0x7F ∧
    (0x08C6 : Half) = crc16 ((f.take (f.length - 2)).drop 1) ∧
    f[f.length - 2]? = some ((0x08C6 : Half).extractLsb' 0 8) ∧
    f[f.length - 1]? = some ((0x08C6 : Half).extractLsb' 8 8) :=
  ⟨by decide, by decide, inputIs_withInput (by decide), rfl, by decide +kernel, by decide, by decide⟩

/-- The frame of a core: start marker, core, checksum. -/
theorem frame_of_core (core : List Byte) (n : Nat) (hc : core.length = n) :
    let f : List Byte := 0x7F :: (core ++ crcBytes (crc16 core))
    f.length = n + 3 ∧ crc16 core = crc16 ((f.take (n + 3 - 2)).drop 1) ∧
    f[n + 3 - 2]? = some ((crc16 core).extractLsb' 0 8) ∧ f[n + 3 - 1]? = some ((crc16 core).extractLsb' 8 8) := by
  subst hc
  refine ⟨by simp, ?_, ?_, ?_⟩ <;> simp [crcBytes, loByte, hiByte]

/-- The longest frame, 1024 bytes. -/
theorem witness_UnpackAcceptsAValidFrame_longest :
    let core : List Byte := List.replicate 1021 0x00
    let f : List Byte := 0x7F :: (core ++ crcBytes (crc16 core))
    6 ≤ f.length ∧ f.length ≤ 1024 ∧ InputIs (withInput f) f ∧ f[0]? = some 0x7F ∧
    crc16 core = crc16 ((f.take (f.length - 2)).drop 1) ∧
    f[f.length - 2]? = some ((crc16 core).extractLsb' 0 8) ∧
    f[f.length - 1]? = some ((crc16 core).extractLsb' 8 8) := by
  intro core f
  obtain ⟨hf, h⟩ := frame_of_core core 1021 List.length_replicate
  have hf : f.length = 1024 := hf
  exact ⟨by omega, by omega, inputIs_withInput (by omega), rfl, by rw [hf]; exact h⟩

/-- IN_LEN = 1025, 0 and 5; a wrong first byte (S9b); a tampered last byte (S9c). -/
theorem witness_UnpackReportsTheFirstFailingTest :
    let g : List Byte := [0x7E, 0x00, 0x01, 0x21, 0xC6, 0x08]
    let f : List Byte := [0x7F, 0x00, 0x01, 0x21, 0xC6, 0x09]
    1024 < (withLength 0x0401).inLen.toNat ∧ (withLength 0).inLen.toNat < 6 ∧ (withLength 5).inLen.toNat < 6 ∧
    (6 ≤ g.length ∧ g.length ≤ 1024 ∧ InputIs (withInput g) g ∧ g[0]? = some 0x7E ∧ g[2]? = some 0x01 ∧
      (0x7E : Byte) ≠ 0x7F) ∧
    (6 ≤ f.length ∧ f.length ≤ 1024 ∧ InputIs (withInput f) f ∧ f[0]? = some 0x7F ∧ f[2]? = some 0x01 ∧
      f[f.length - 2]? = some 0xC6 ∧ f[f.length - 1]? = some 0x09 ∧
      (0x08C6 : Half) = crc16 ((f.take (f.length - 2)).drop 1) ∧ (0x09#8 ++ 0xC6#8 : Half) ≠ 0x08C6) :=
  ⟨by decide, by decide, by decide,
    ⟨by decide, by decide, inputIs_withInput (by decide), rfl, rfl, by decide⟩,
    ⟨by decide, by decide, inputIs_withInput (by decide), rfl, rfl, rfl, rfl, by decide +kernel, by decide⟩⟩

/-- Frames of no byte and of 1024 bytes; one the contract accepts and one it does not. -/
theorem witness_UnpackRefinesItsContract :
    (([] : List Byte).length ≤ 1024 ∧ InputIs (withInput []) []) ∧
    ((List.replicate 1024 (0x00 : Byte)).length ≤ 1024 ∧
      InputIs (withInput (List.replicate 1024 0x00)) (List.replicate 1024 0x00)) ∧
    unpackFrame [0x7F, 0x00, 0x01, 0x21, 0xC6, 0x08] = .ok [0x21] ∧
    unpackFrame [0x7F, 0x00, 0x01, 0x21, 0xC6, 0x09] = .error .checksumMismatch :=
  ⟨⟨by decide, inputIs_withInput (by decide)⟩, ⟨Nat.le_of_eq List.length_replicate, inputIs_replicate _ _ (by decide)⟩, by decide +kernel,
    by decide +kernel⟩

theorem witness_FrameRoundTrip :
    (1 ≤ ([0x21] : List Byte).length ∧ ([0x21] : List Byte).length ≤ 255) ∧
    (1 ≤ (List.replicate 255 (0x7F : Byte)).length ∧ (List.replicate 255 (0x7F : Byte)).length ≤ 255) := by
  rw [List.length_replicate]; decide

/-- S10 as commands, with a payload of 1 byte. -/
theorem witness_PackThenUnpackReturnsThePayload :
    1 ≤ ([0x21] : List Byte).length ∧ ([0x21] : List Byte).length ≤ 255 ∧ InputIs (withInput [0x21]) [0x21] ∧
    ∃ t u : State, exec (.pack 0x00) (withInput [0x21]) = .next t ∧ u.inLen = t.outLen ∧
      ∀ a, a < t.outLen.toNat → u.inBuf.read a = t.outBuf.read a :=
  ⟨by decide, by decide, inputIs_withInput (by decide), _,
    { State.reset with inLen := 6, inBuf := [(0, 0x7F), (1, 0x00), (2, 0x01), (3, 0x21), (4, 0xC6), (5, 0x08)] },
    rfl, by decide +kernel, by decide +kernel⟩

/-- The same with a payload of 255 bytes. -/
theorem witness_PackThenUnpackReturnsThePayload_longest :
    (List.replicate 255 (0x21 : Byte)).length ≤ 255 ∧
    InputIs (withInput (List.replicate 255 0x21)) (List.replicate 255 0x21) ∧
    ∃ t u : State, exec (.pack 0x00) (withInput (List.replicate 255 0x21)) = .next t ∧ u.inLen = t.outLen ∧
      ∀ a, a < t.outLen.toNat → u.inBuf.read a = t.outBuf.read a := by
  have hi := inputIs_replicate 255 0x21 (by decide)
  have hp := input_eq_some.2 hi
  have hl : (beginCommand 0x04 (withInput (List.replicate 255 0x21))).inLen.toNat = 255 := by decide +kernel
  have he : ∃ t, exec (.pack 0x00) (withInput (List.replicate 255 0x21)) = .next t := by
    refine ⟨(((beginCommand 0x04 (withInput (List.replicate 255 0x21))).setCrc
      (crc16 (frameCore (List.replicate 255 0x21) 0x00))).setOut (packFrame (List.replicate 255 0x21) 0x00)), ?_⟩
    rw [exec, execPack, packWith, checkInputLength_of_le (by rw [hl]; decide),
      checkPayloadLength_of_le (by rw [hl]), consumeInput_of_some (by rw [input_beginCommand]; exact hp)]
  obtain ⟨t, ht⟩ := he
  exact ⟨Nat.le_of_eq List.length_replicate, hi, t, { State.reset with inLen := t.outLen, inBuf := t.outBuf }, ht, rfl, fun _ _ => rfl⟩

theorem witness_TamperedChecksumIsRejected :
    1 ≤ ([0x21] : List Byte).length ∧ ([0xC6, 0x09] : List Byte) ≠ cksumBytes (0x00 :: BitVec.ofNat 8 1 :: [0x21]) := by
  decide +kernel

theorem witness_SeqRetryRepeatsWithoutToggling :
    ({ State.reset with seqstat := 0x01 } : State).seqstat.getLsbD 0 = true ∧
    State.reset.seqstat.getLsbD 0 = false ∧
    ∃ t, exec .seqNext { State.reset with seqaddr := 0x05 } = .next t := ⟨by decide, by decide, _, rfl⟩

/-- A command other than SEQ_NEXT, and a write to SEQADDR. -/
theorem witness_OnlySeqNextChangesTheSequenceState :
    (∃ t, step (withBus [.write 0x001 [0x09]]) = .next t) ∧ BusOp.write 0x001 [0x09] ≠ .reset ∧
    BusOp.write 0x001 [0x09] ≠ .write 0x001 [0x08] ∧ (∀ v, BusOp.write 0x001 [0x09] ≠ .write 0x012 [v]) ∧
    (∃ t, step (withBus [.write 0x012 [0x05]]) = .next t) ∧ BusOp.write 0x012 [0x05] ≠ .write 0x001 [0x08] :=
  ⟨⟨_, rfl⟩, by decide, by decide, by simp, ⟨_, rfl⟩, by decide⟩

/-- 0xF1 and 0x00 are outside the catalog (V69, V70). -/
theorem witness_ResponseClassTable :
    (([0xF1, 0x00] : List Byte).all fun c =>
      !([0xF0, 0xF2, 0xF3, 0xF4, 0xF5, 0xF6, 0xF8, 0xFA] : List Byte).contains c) = true := by decide

/-- A payload for each branch of R153 (S16 to S20, V64), the longest one, and IN_LEN = 1025. -/
theorem witness_ClassifyInReportsTheOutcome :
    (0xFE : Byte).getLsbD 0 = false ∧
    InputIs (withInput []) [] ∧ InputIs (withInput [0xF0, 0x01, 0x02]) [0xF0, 0x01, 0x02] ∧
    InputIs (withInput [0xF5]) [0xF5] ∧ InputIs (withInput [0xF5, 0x03, 0xFF]) [0xF5, 0x03, 0xFF] ∧
    InputIs (withInput [0xF5, 0x07]) [0xF5, 0x07] ∧ (0x07 : Byte) ≠ 0x03 ∧
    InputIs (withInput [0xF8]) [0xF8] ∧ (0xF8 : Byte) ≠ 0xF0 ∧ (0xF8 : Byte) ≠ 0xF5 ∧
    InputIs (withInput (List.replicate 1024 0xF0)) (List.replicate 1024 0xF0) ∧
    1024 < (withLength 0x0401).inLen.toNat :=
  ⟨by decide, inputIs_withInput (by decide), inputIs_withInput (by decide), inputIs_withInput (by decide),
    inputIs_withInput (by decide), inputIs_withInput (by decide), by decide, inputIs_withInput (by decide), by decide,
    by decide, inputIs_replicate _ _ (by decide), by decide⟩

/-- An empty output (V71), V73, and an output of 2048 bytes. -/
theorem witness_ClassifyOutUsesThePreviousOutput :
    (0xFF : Byte).getLsbD 0 = true ∧ OutputHolds (withOutput []) [] ∧
    OutputHolds (withOutput [0xF0, 0x7F, 0x7F]) [0xF0, 0x7F, 0x7F] ∧
    OutputHolds (withOutput (List.replicate 2048 0x7F)) (List.replicate 2048 0x7F) :=
  ⟨by decide, outputHolds_withOutput (by decide), outputHolds_withOutput (by decide), outputHolds_replicate _ _ (by decide)⟩

theorem witness_ClassifyRefinesItsContract :
    InputIs (withInput [0xF5, 0x07]) [0xF5, 0x07] ∧ OutputHolds (withOutput [0xF5]) [0xF5] :=
  ⟨inputIs_withInput (by decide), outputHolds_withOutput (by decide)⟩

theorem witness_IllegalLengthStopsExactlyInputCommands :
    (usesIn .unpack = true ∧ 1024 < (withLength 0x0401).inLen.toNat) ∧
    (usesIn (.classify .outBuf) = false ∧ ∃ t, exec (.classify .outBuf) (withLength 0x0401) = .next t) :=
  ⟨by decide, by decide, _, rfl⟩

theorem witness_CommandsRaiseOnlyTheirErrors : ∃ t, exec .unpack (withLength 5) = .next t := ⟨_, rfl⟩

theorem witness_NoCommandWritesItsInput :
    (∃ t, step { probe with bus := [.write 0x001 [0x08]] } = .next t) ∧ BusOp.write 0x001 [0x08] ≠ .reset ∧
    (∀ off v, BusOp.write 0x001 [0x08] = .write off [v] → off.toNat < 0x400 ∨ 0x800 ≤ off.toNat) ∧
    (∀ v, BusOp.write 0x001 [0x08] ≠ .write 0x00E [v] ∧ BusOp.write 0x001 [0x08] ≠ .write 0x00F [v]) := by
  refine ⟨⟨_, rfl⟩, by decide, fun off v h => ?_, by simp⟩
  cases h
  exact .inl (by decide)

/-- A shorter output over a longer one. -/
theorem witness_OutBytesAboveOutLenStay :
    ∃ t, exec .seqNext (withOutput [0xF0, 0x7F, 0x7F]) = .next t ∧ t.outLen.toNat ≤ 2 := ⟨_, rfl, by decide +kernel⟩

theorem witness_ErrorsLeaveNoOutput :
    ∃ t, exec .seqRetry (withOutput [0xF0]) = .next t ∧ t.err ≠ 0x00 := ⟨_, rfl, by decide +kernel⟩

/-- Two states that differ in every result register, in IN above IN_LEN and in stale OUT bytes, for CLASSIFY OUT. -/
theorem witness_ResultsDependOnOperandsAlone :
    SameOperands (.classify .outBuf) (withOutput [0xF5, 0x07])
      { withOutput [0xF5, 0x07] with
        err := 0x06, ctxv := 0x18, crc := 0x08C6, rcode := 0xF5, inBuf := [(0, 0xAA)],
        outBuf := cellsFrom 0 [0xF5, 0x07, 0x99] } ∧
    ∃ t, exec (.classify .outBuf) (withOutput [0xF5, 0x07]) = .next t := by
  refine ⟨⟨rfl, fun a h => absurd h (by simp [withOutput, State.reset]), rfl, rfl, rfl, fun _ => rfl, fun _ => ?_⟩, _, rfl⟩
  decide +kernel

/-- LOADIN of no byte and of as many as IN holds. -/
theorem witness_LoadinLoadsTheInput :
    (([] : List Byte).length ≤ 1024 ∧ (withBus (expand (.loadin []) ++ [])).bus = expand (.loadin []) ++ []) ∧
    (List.replicate 1024 (0x21 : Byte)).length ≤ 1024 ∧
    (withBus (expand (.loadin (List.replicate 1024 0x21)) ++ [.reset])).bus =
      expand (.loadin (List.replicate 1024 0x21)) ++ [.reset] :=
  ⟨⟨by decide, rfl⟩, Nat.le_of_eq List.length_replicate, rfl⟩

/-- A state after CLASSIFY reported DEVICE_BUSY in a connection that has issued a sequence byte, SEQ_NEXT pending. -/
def busyState : State :=
  { withInput [0xF5, 0x03, 0xFF] with
    err := 0x05, ctxv := 0x18, rcode := 0xF5, rclass := 0x04, subcode := 0x03, seqaddr := 0x05, lastseq := 0x85,
    seqstat := 0x01, outBuf := [(0, 0x85)], bus := [.write 0x001 [0x08]] }

theorem witness_EveryStepKeepsTheStateInvariant : Inv busyState ∧ ∃ t, step busyState = .next t := by
  refine ⟨⟨⟨by decide, by decide⟩, ⟨by decide, by decide⟩, by decide, fun a h => ?_, by decide, by decide, by decide,
    by decide, by decide, by decide⟩, _, rfl⟩
  exact absurd h (by simp [busyState, withInput, State.reset])

theorem witness_EveryStepKeepsTheErrorContext : ErrorContext busyState ∧ ∃ t, step busyState = .next t := by
  refine ⟨?_, _, rfl⟩
  constructor <;> decide

end Sys2Proof.Tests
end

section
/-!
PROOFS. The statements about the state (`10_state.md`): what a host write stores, what a command leaves alone, and the
two invariants of every step. Three lemmas carry them: `issue_ending` says how a write to CMD can end, `issue_bodyOf`
what it does to OUT and to the input, and `step_keeps` reduces an invariant of a step to the four kinds of access.
-/

namespace Sys2Proof.Machine

/-! ### The decoder keeps the opcode (R73, R74) -/

/-- A word that decodes to a command carries that command's OP. -/
theorem opcode_of_decode {cw : CmdWord} {i : Instr} (h : decode cw = .ok i) : opcode i = opField cw := by
  unfold decode at h
  refine BitVec.eq_of_toNat_eq ?_
  split at h <;> cases h
  all_goals next hop => exact hop.symm

/-- A reserved opcode is reported as it stands in the word. -/
theorem reserved_of_decode {cw : CmdWord} {op : Byte} (h : decode cw = .error (.reservedOpcode op)) :
    op = opField cw := by
  unfold decode at h
  split at h <;> cases h
  rfl

/-! ### Response classes (R32, R151) -/

/-- A lookup gives the class of one of the rows, or `noClass`. -/
theorem classIn_eq_noClass_or_mem (rows : List CatalogRow) (code : Byte) :
    classIn rows code = noClass ∨ ∃ row ∈ rows, classIn rows code = row.cls := by
  induction rows with
  | nil => exact .inl rfl
  | cons row rows ih =>
    rw [classIn]
    split
    · exact .inr ⟨row, List.mem_cons_self, rfl⟩
    · exact ih.imp_right fun ⟨r, hr, hc⟩ => ⟨r, List.mem_cons_of_mem _ hr, hc⟩

/-- RCLASS is 0x0 to 0x7 or 0xF. -/
theorem rclass_range (code : Byte) : (rclass code).toNat < 8 ∨ rclass code = 0xF := by
  have hrows : ∀ row ∈ catalog, row.cls.toNat < 8 := by decide
  rcases classIn_eq_noClass_or_mem catalog code with h | ⟨row, hrow, h⟩
  · exact .inr h
  · rw [rclass, h]
    exact .inl (hrows row hrow)

@[simp] theorem rclass_ok : rclass 0xF0#8 = 0x0#4 := rfl

@[simp] theorem rclass_cannotProcess : rclass 0xF5#8 = 0x4#4 := rfl

/-! ### How a command ends -/

/-- The errors of R163 that carry no context: they are raised right after the prologue. -/
def bareErrors : List ErrCode :=
  [.frameTooShort, .emptyPayload, .payloadTooLong, .noPriorSequence, .illegalCommand, .illegalLength]

/-- Every way a write of `op` to CMD can end in a next state: the result registers the command sets after the prologue,
with what it has checked of their values (R102 to R163). -/
inductive Ending (op : Byte) (s : State) : State → Prop
  | error (e : ErrCode) (he : e ∈ bareErrors) : Ending op s ((beginCommand op s).setErr e)
  | output (bs : List Byte) : Ending op s ((beginCommand op s).setOut bs)
  | checksum (c : Half) : Ending op s ((beginCommand op s).setCrc c)
  | checksumOutput (c : Half) (bs : List Byte) : Ending op s (((beginCommand op s).setCrc c).setOut bs)
  | invalidFraming (fb fl : Byte) (hfb : fb ≠ 0x7F#8) :
      Ending op s (((beginCommand op s).setHeader fb fl).setErr .invalidFraming)
  | checksumMismatch (fl : Byte) (c r : Half) (hcr : c ≠ r) :
      Ending op s (((((beginCommand op s).setHeader 0x7F#8 fl).setCrc c).setRcv r).setErr .checksumMismatch)
  | unpacked (fl : Byte) (c : Half) (bs : List Byte) :
      Ending op s (((((beginCommand op s).setHeader 0x7F#8 fl).setCrc c).setRcv c).setOut bs)
  | success (bs : List Byte) : Ending op s (((beginCommand op s).setResponse 0xF0#8 (rclass 0xF0#8)).setOut bs)
  | cannotProcess : Ending op s (((beginCommand op s).setResponse 0xF5#8 (rclass 0xF5#8)).setErr .cannotProcess)
  | deviceBusy :
      Ending op s ((((beginCommand op s).setResponse 0xF5#8 (rclass 0xF5#8)).setSubcode 0x03#8).setErr .deviceBusy)
  | cannotProcessSub (sub : Byte) (hsub : sub ≠ 0x03#8) :
      Ending op s ((((beginCommand op s).setResponse 0xF5#8 (rclass 0xF5#8)).setSubcode sub).setErr .cannotProcess)
  | protocolError (code : Byte) (hok : code ≠ 0xF0#8) (hcp : code ≠ 0xF5#8) :
      Ending op s (((beginCommand op s).setResponse code (rclass code)).setErr .protocolError)
  | sequence (hop : op = 0x08) (bs : List Byte) : Ending op s (((beginCommand op s).setOut bs).advanceSeq)

theorem packWith_ending {op : Byte} {build : List Byte → List Byte} {sa : Byte} {s t : State}
    (h : packWith build sa (beginCommand op s) = .next t) : Ending op s t := by
  rcases packWith_next h with ⟨-, rfl⟩ | ⟨-, -, rfl⟩ | ⟨-, p, -, rfl⟩
  · exact .error _ (by decide)
  · exact .error _ (by decide)
  · exact .checksumOutput _ _

theorem unpackBody_ending {op : Byte} {f : List Byte} {s t : State}
    (h : unpackBody f (beginCommand op s) = .next t) : Ending op s t := by
  rcases unpackBody_next h with ⟨hm, rfl⟩ | ⟨hm, hne, rfl⟩ | ⟨hm, heq, rfl⟩
  · exact .invalidFraming _ _ hm
  · rw [hm]
    exact .checksumMismatch _ _ _ hne.symm
  · rw [hm, heq]
    exact .unpacked _ _ _

theorem classifyBody_ending {op : Byte} {q : List Byte} {s t : State}
    (h : classifyBody q (beginCommand op s) = .next t) : Ending op s t := by
  rcases classifyBody_next h with
    ⟨-, rfl⟩ | ⟨rest, -, rfl⟩ | ⟨-, rfl⟩ | ⟨-, -, rfl⟩ | ⟨sub, -, hsub, -, rfl⟩ | ⟨code, -, hok, hcp, -, rfl⟩
  · exact .error _ (by decide)
  · exact .success rest
  · exact .cannotProcess
  · exact .deviceBusy
  · exact .cannotProcessSub sub hsub
  · exact .protocolError code hok hcp

theorem exec_ending {i : Instr} {s t : State} (h : exec i s = .next t) : Ending (opcode i) s t := by
  cases i with
  | cksum =>
    rcases execCksum_next h with ⟨-, rfl⟩ | ⟨-, p, -, rfl⟩
    · exact .error _ (by decide)
    · exact .checksum _
  | cksumb =>
    rcases execCksumb_next h with ⟨-, rfl⟩ | ⟨-, p, -, rfl⟩
    · exact .error _ (by decide)
    · exact .checksumOutput _ _
  | stuff =>
    rcases execStuff_next h with ⟨-, rfl⟩ | ⟨-, p, -, rfl⟩
    · exact .error _ (by decide)
    · exact .output _
  | pack sa => exact packWith_ending h
  | packs sa => exact packWith_ending h
  | unpack =>
    rcases execUnpack_next h with ⟨-, rfl⟩ | ⟨-, rfl⟩ | ⟨-, -, f, -, h⟩
    · exact .error _ (by decide)
    · exact .error _ (by decide)
    · exact unpackBody_ending h
  | classify src =>
    rcases execClassify_next h with ⟨-, -, rfl⟩ | ⟨-, -, q, -, h⟩ | ⟨-, h⟩
    · exact .error _ (by decide)
    · exact classifyBody_ending h
    · exact classifyBody_ending h
  | seqNext =>
    rw [exec, execSeqNext_eq] at h
    cases h
    exact .sequence rfl _
  | seqRetry =>
    rcases execSeqRetry_next h with ⟨-, rfl⟩ | ⟨-, rfl⟩
    · exact .output _
    · exact .error _ (by decide)

/-- A write to CMD is one of the nine commands or ILLEGAL_COMMAND, and latches the byte written (R71, R74, R75). -/
theorem issue_next {v : Byte} {s t : State} (h : issue v s = .next t) :
    (∃ i, opcode i = v ∧ exec i s = .next t) ∨ t = (beginCommand v s).setErr .illegalCommand := by
  rcases issue_cases v s with ⟨i, hd, hi⟩ | ⟨op, hd, hi⟩
  · exact .inl ⟨i, by simpa using opcode_of_decode hd, hi ▸ h⟩
  · have hop : op = v := by simpa using reserved_of_decode hd
    rw [hi, hop] at h
    cases h
    exact .inr rfl

theorem issue_ending {v : Byte} {s t : State} (h : issue v s = .next t) : Ending v s t := by
  rcases issue_next h with ⟨i, rfl, hi⟩ | rfl
  · exact exec_ending hi
  · exact .error _ (by decide)

theorem issue_bodyOf {v : Byte} {s t : State} (h : issue v s = .next t) : BodyOf v s t := by
  rcases issue_next h with ⟨i, rfl, hi⟩ | rfl
  · exact exec_bodyOf hi
  · exact bodyOf_raise v _ s

/-- Only SEQ_NEXT changes the sequence state (R36 to R38). -/
theorem Ending.seqState {op : Byte} {s t : State} (h : Ending op s t) :
    (t.seqaddr = s.seqaddr ∧ t.lastseq = s.lastseq ∧ t.seqstat = s.seqstat) ∨
    (op = 0x08 ∧ t.seqstat = lastVSet) := by
  cases h with
  | sequence hop bs => exact .inr ⟨hop, rfl⟩
  | _ => exact .inl ⟨rfl, rfl, rfl⟩

/-- OUT after a command: the sequence it wrote from index 0, whose length OUT_LEN holds in full (R35, R40). -/
theorem BodyOf.outSeq {op : Byte} {s t : State} (h : BodyOf op s t) :
    ∃ bs : List Byte, (bs.length ≤ 2048 ∨ bs.length < s.outLen.toNat) ∧
      t.outBuf = s.outBuf.writeSeq bs ∧ t.outLen.toNat = bs.length := by
  obtain ⟨bs, hlen, hbuf, hout, -⟩ := h.out
  refine ⟨bs, hlen, hbuf, ?_⟩
  have := s.outLen.isLt
  rw [hout, BitVec.toNat_ofNat]
  exact Nat.mod_eq_of_lt (by omega)

/-! ### One step -/

/-- The step of an idle block. -/
theorem step_idle {s : State} (h : s.bus = []) : step s = .next s := by
  rw [step, h]

/-- A write to a location other than CMD changes at most IMM, IN_LEN, SEQADDR and IN. -/
theorem storedAt_eq (l : Loc) (v : Byte) (s : State) :
    storedAt l v s =
      { s with
        imm := (storedAt l v s).imm
        inLen := (storedAt l v s).inLen
        seqaddr := (storedAt l v s).seqaddr
        inBuf := (storedAt l v s).inBuf } := by
  cases l <;> rfl

theorem storedAt_seqaddr {l : Loc} (hl : l ≠ .seqaddr) (v : Byte) (s : State) :
    (storedAt l v s).seqaddr = s.seqaddr := by
  cases l with
  | seqaddr => exact absurd rfl hl
  | _ => rfl

theorem storedAt_inBuf_wf {l : Loc} {s : State} (hl : ∀ i, l = .inByte i → i < 1024) (v : Byte)
    (h : s.inBuf.wf 1024) : (storedAt l v s).inBuf.wf 1024 := by
  cases l with
  | inByte i => exact Memory.write_wf v (hl i rfl) h
  | _ => exact h

/-- What a step keeps: a property that does not depend on the host's side, and that writes outside CMD, commands and
RESET keep, holds after every step from a state where it holds. -/
theorem step_keeps {P : State → Prop}
    (host : ∀ (s : State) (bus : List BusOp) (replies : List Byte), P s → P { s with bus := bus, replies := replies })
    (store : ∀ (s : State) (off : Offset) (v : Byte), P s → P (storedAt (locAt off) v s))
    (command : ∀ (s t : State) (v : Byte), P s → issue v s = .next t → P t)
    (reset : ∀ s : State, P (resetEvent s))
    {s t : State} (hs : P s) (h : step s = .next t) : P t := by
  have popped (rest : List BusOp) : P { s with bus := rest } := host s rest s.replies hs
  have hcases := step_cases s
  rw [h] at hcases
  rcases hcases with ⟨-, ⟨⟩⟩ | ⟨off, rest, -, ⟨⟩⟩ | ⟨off, v, rest, -, -, hissue⟩ | ⟨off, v, rest, -, -, ⟨⟩⟩ |
    ⟨rest, -, ⟨⟩⟩ | ⟨-, -, -, -, -, ⟨⟩⟩
  · exact hs
  · exact host s _ _ hs
  · exact command _ t v (popped rest) hissue.symm
  · exact store _ off v (popped rest)
  · exact reset _

/-! ### The invariant of the state (R25, R26, R32, R35, R37 to R40, R161) -/

/-- The bounds of `Inv` on the status registers. -/
structure StatusRange (s : State) : Prop where
  errReserved : s.err.toNat < 16
  errProduced : s.err ≠ 0x08 ∧ s.err ≠ 0x09 ∧ s.err ≠ 0x0E ∧ s.err ≠ 0x0F
  ctxvReserved : s.ctxv.toNat < 32
  rclassRange : s.rclass.toNat < 8 ∨ s.rclass = 0x0F

/-- Every command leaves ERR, CTXV and RCLASS in range, whatever they held before. -/
theorem Ending.statusRange {op : Byte} {s t : State} (h : Ending op s t) : StatusRange t := by
  cases h with
  | error e he =>
    have hcode : ∀ e ∈ bareErrors,
        e.toErr.toNat < 16 ∧ e.toErr ≠ 0x08 ∧ e.toErr ≠ 0x09 ∧ e.toErr ≠ 0x0E ∧ e.toErr ≠ 0x0F := by decide
    obtain ⟨hlt, hne⟩ := hcode e he
    exact ⟨hlt, hne, by simp, by simp⟩
  | protocolError code hok hcp =>
    refine ⟨by simp, by simp, by simp, ?_⟩
    rcases rclass_range code with h | h
    · exact .inl (by simpa using Nat.lt_of_le_of_lt (Nat.mod_le _ _) h)
    · exact .inr (by simp [h])
  | _ => constructor <;> simp

theorem inv_of_issue {s t : State} {v : Byte} (hs : Inv s) (h : issue v s = .next t) : Inv t := by
  have body := issue_bodyOf h
  have status := (issue_ending h).statusRange
  obtain ⟨bs, hlen, hbuf, hout⟩ := body.outSeq
  have hbs : bs.length ≤ 2048 := hlen.elim id fun hlt => Nat.le_trans (Nat.le_of_lt hlt) hs.outLenBound
  have hseq : (t.seqstat = 0x00 ∨ t.seqstat = 0x01) ∧ (t.seqstat = 0x00 → t.lastseq = 0x00) := by
    rcases (issue_ending h).seqState with ⟨-, hlast, hstat⟩ | ⟨-, hstat⟩
    · rw [hlast, hstat]
      exact ⟨hs.seqstatReserved, hs.lastseqUnissued⟩
    · rw [hstat]
      exact ⟨.inr rfl, fun h => absurd h (by decide)⟩
  exact {
    inWf := body.inBuf ▸ hs.inWf
    outWf := hbuf ▸ Memory.writeSeq_wf hbs hs.outWf
    outLenBound := hout ▸ hbs
    outWritten := fun a ha => by
      rw [hbuf, Memory.read_writeSeq, dif_pos (hout ▸ ha)]
      rfl
    errReserved := status.errReserved
    errProduced := status.errProduced
    ctxvReserved := status.ctxvReserved
    rclassRange := status.rclassRange
    seqstatReserved := hseq.1
    lastseqUnissued := hseq.2 }

/-- `Inv` does not depend on the registers the host writes or on the host's side. -/
theorem Inv.hostSide {s : State} (h : Inv s) {imm seqaddr : Byte} {inLen : Half} {inBuf : Memory} {bus : List BusOp}
    {replies : List Byte} (hin : inBuf.wf 1024) :
    Inv { s with
      imm := imm, seqaddr := seqaddr, inLen := inLen, inBuf := inBuf, bus := bus, replies := replies } :=
  ⟨hin, h.outWf, h.outLenBound, h.outWritten, h.errReserved, h.errProduced, h.ctxvReserved, h.rclassRange,
    h.seqstatReserved, h.lastseqUnissued⟩

theorem inv_storedAt {s : State} (h : Inv s) (off : Offset) (v : Byte) : Inv (storedAt (locAt off) v s) := by
  rw [storedAt_eq]
  exact h.hostSide (storedAt_inBuf_wf (fun i hi => (locAt_inByte hi).1) v h.inWf)

theorem Memory.wf_nil (cap : Nat) : Memory.wf cap [] := ⟨.nil, by simp⟩

theorem inv_resetEvent (s : State) : Inv (resetEvent s) := by
  constructor
  case inWf => exact Memory.wf_nil _
  case outWf => exact Memory.wf_nil _
  all_goals simp

/-! ### The error context (R26, R160, R163) -/

/-- Every command leaves the context of its error, whatever the registers held before. -/
theorem Ending.errorContext {op : Byte} {s t : State} (h : Ending op s t) : ErrorContext t := by
  cases h with
  | error e he =>
    have hcode : ∀ e ∈ bareErrors, e.toErr ≠ 0x02#8 ∧ e.toErr ≠ 0x03#8 ∧ e.toErr ≠ 0x05#8 ∧
        e.toErr ≠ 0x06#8 ∧ e.toErr ≠ 0x07#8 := by decide
    obtain ⟨h2, h3, h5, h6, h7⟩ := hcode e he
    constructor <;> simp [h2, h3, h5, h6, h7]
  | invalidFraming fb fl hfb => constructor <;> simp [hfb]
  | checksumMismatch fl c r hcr => constructor <;> simp [hcr]
  | cannotProcessSub sub hsub => constructor <;> simp [hsub]
  | protocolError code hok hcp => constructor <;> simp [hok, hcp]
  | _ => constructor <;> simp

/-- `ErrorContext` does not depend on the registers the host writes or on the host's side. -/
theorem ErrorContext.hostSide {s : State} (h : ErrorContext s) {imm seqaddr : Byte} {inLen : Half} {inBuf : Memory}
    {bus : List BusOp} {replies : List Byte} :
    ErrorContext { s with
      imm := imm, seqaddr := seqaddr, inLen := inLen, inBuf := inBuf, bus := bus, replies := replies } :=
  ⟨h.crcClear, h.rcvClear, h.headerClear, h.responseClear, h.subcodeClear, h.noOutput, h.noError, h.frameTooShort,
    h.invalidFraming, h.checksumMismatch, h.emptyPayload, h.deviceBusy, h.cannotProcess, h.protocolError,
    h.otherErrors⟩

theorem errorContext_storedAt {s : State} (h : ErrorContext s) (l : Loc) (v : Byte) :
    ErrorContext (storedAt l v s) := by
  rw [storedAt_eq]
  exact h.hostSide

theorem errorContext_resetEvent (s : State) : ErrorContext (resetEvent s) := by
  constructor <;> simp

end Sys2Proof.Machine

/-! ### The obligations -/

namespace Sys2Proof.Claims

open Sys2Proof.Machine

/-- Settles O49: commands by `inv_of_issue`, every other access by the frame lemmas. -/
theorem everyStepKeepsTheStateInvariant : Obligations.EveryStepKeepsTheStateInvariant := by
  intro s t
  exact step_keeps
    (host := fun _ _ _ h => h.hostSide h.inWf)
    (store := fun _ off v h => inv_storedAt h off v)
    (command := fun _ _ _ h hi => inv_of_issue h hi)
    (reset := inv_resetEvent)

/-- Settles O50: a command sets up the context of its own error, and no other access touches it. -/
theorem everyStepKeepsTheErrorContext : Obligations.EveryStepKeepsTheErrorContext := by
  intro s t
  exact step_keeps
    (host := fun _ _ _ h => h.hostSide)
    (store := fun _ off v h => errorContext_storedAt h (locAt off) v)
    (command := fun _ _ _ _ hi => (issue_ending hi).errorContext)
    (reset := errorContext_resetEvent)

/-- Settles O14, location by location of the window map. -/
theorem hostWritesStoreTheirByte : Obligations.HostWritesStoreTheirByte := by
  intro s off v rest hbus
  have hstep : locAt off ≠ .cmd → step s = .next (storedAt (locAt off) v { s with bus := rest }) := fun hne => by
    rw [step_write hbus, writeByte_eq, if_neg hne]
  refine ⟨?imm, ?inLenLo, ?inLenHi, fun hlo hhi => ?inByte⟩
  case inByte =>
    rw [locAt_in hlo hhi] at hstep
    exact ⟨_, hstep (by simp), rfl, Memory.read_write_same _ _ _, fun a ha => Memory.read_write_other _ _ ha⟩
  all_goals
    rintro rfl
    exact hstep (by decide)

/-- Settles O37, by the kind of access: reads touch no register, writes outside CMD are `storedAt_eq`, commands other
than SEQ_NEXT are `Ending.seqState`. -/
theorem onlySeqNextChangesTheSequenceState : Obligations.OnlySeqNextChangesTheSequenceState := by
  intro s t op rest hbus h hreset hnext
  have hcases := step_cases s
  rw [hbus, h] at hcases
  rcases hcases with ⟨⟨⟩, -⟩ | ⟨off, _, ⟨⟩, ⟨⟩⟩ | ⟨off, v, _, ⟨⟩, hcmd, hissue⟩ | ⟨off, v, _, ⟨⟩, -, ⟨⟩⟩ |
    ⟨_, ⟨⟩, -⟩ | ⟨_, _, _, -, -, ⟨⟩⟩
  · exact ⟨rfl, rfl, fun _ => rfl⟩
  · rcases (issue_ending hissue.symm).seqState with ⟨haddr, hlast, hstat⟩ | ⟨hv, -⟩
    · exact ⟨hlast, hstat, fun _ => haddr⟩
    · exact absurd (by rw [hv, locAt_cmd.1 hcmd]) hnext
  · refine ⟨by rw [storedAt_eq], by rw [storedAt_eq], fun hne => storedAt_seqaddr (fun hl => ?_) v _⟩
    exact hne v (by rw [locAt_seqaddr.1 hl])
  · exact absurd rfl hreset

/-- Settles O45: OUT_LEN is the length of the sequence the command wrote from index 0. -/
theorem outBytesAboveOutLenStay : Obligations.OutBytesAboveOutLenStay := by
  intro i s t h a ha
  obtain ⟨bs, -, hbuf, hout⟩ := (exec_bodyOf h).outSeq
  rw [hbuf, Memory.read_writeSeq, dif_neg (by omega)]

/-- Settles O6. -/
theorem idleBlockHoldsItsState : Obligations.IdleBlockHoldsItsState :=
  fun _ h => step_idle h

end Sys2Proof.Claims
end

section
/-!
PROOFS. The statements about memory and the window (`20_memory.md`): which accesses stop a step, what a command does with
an input byte nothing has written, and what each offset of the window answers. Three lemmas carry them:
`exec_of_unwritten` and `exec_completes` say when a command faults and that it goes on otherwise, and `locAt_offset`
inverts the window map.
-/

namespace Sys2Proof.Machine

/-! ### When a command completes (R60, R68, R160) -/

/-- The command ends in a next state: neither a fault nor a refusal. -/
def Completes (r : Result) : Prop := ∃ t, r = .next t

theorem raise_completes (e : ErrCode) (s : State) : Completes (raise e s) := ⟨_, rfl⟩

theorem checkInputLength_completes {s : State} {body : Result} (h : s.inLen.toNat ≤ 1024 → Completes body) :
    Completes (checkInputLength s body) := by
  rcases Nat.lt_or_ge 1024 s.inLen.toNat with hl | hl
  · exact ⟨_, checkInputLength_of_gt hl⟩
  · rw [checkInputLength_of_le hl]
    exact h hl

theorem checkPayloadLength_completes {s : State} {body : Result} (h : s.inLen.toNat ≤ 255 → Completes body) :
    Completes (checkPayloadLength s body) := by
  rcases Nat.lt_or_ge 255 s.inLen.toNat with hl | hl
  · exact ⟨_, checkPayloadLength_of_gt hl⟩
  · rw [checkPayloadLength_of_le hl]
    exact h hl

theorem consumeInput_completes {s : State} {body : List Byte → Result} (hw : Written s)
    (h : ∀ p, Completes (body p)) : Completes (consumeInput s body) := by
  obtain ⟨p, hp⟩ := written_iff.1 hw
  rw [consumeInput_of_some hp]
  exact h p

theorem packWith_completes {build : List Byte → List Byte} {sa : Byte} {s1 : State}
    (hw : s1.inLen.toNat ≤ 255 → Written s1) : Completes (packWith build sa s1) :=
  checkInputLength_completes fun _ => checkPayloadLength_completes fun hl =>
    consumeInput_completes (hw hl) fun _ => ⟨_, rfl⟩

theorem unpackBody_completes (f : List Byte) (s1 : State) : Completes (unpackBody f s1) := by
  simp only [unpackBody]
  split
  · exact raise_completes _ _
  · split
    · exact raise_completes _ _
    · exact ⟨_, rfl⟩

theorem classifyBody_completes (q : List Byte) (s1 : State) : Completes (classifyBody q s1) := by
  cases q with
  | nil => exact raise_completes _ _
  | cons code rest =>
    simp only [classifyBody]
    split
    · exact ⟨_, rfl⟩
    · split
      · cases rest with
        | nil => exact raise_completes _ _
        | cons sub rest =>
          simp only
          split
          · exact raise_completes _ _
          · exact raise_completes _ _
      · exact raise_completes _ _

/-- A command completes when the input it reads, if it reads any, is written. -/
theorem exec_completes {i : Instr} {s : State} (hw : consumesAt i s.inLen.toNat = true → Written s) :
    Completes (exec i s) := by
  cases i with
  | cksum | cksumb | stuff =>
    exact checkInputLength_completes fun hl =>
      consumeInput_completes (hw (decide_eq_true hl)) fun _ => ⟨_, rfl⟩
  | pack sa | packs sa => exact packWith_completes fun hl => hw (decide_eq_true hl)
  | unpack =>
    refine checkInputLength_completes fun hl => ?_
    split
    · exact raise_completes _ _
    · next hs =>
      exact consumeInput_completes (hw (decide_eq_true ⟨Nat.le_of_not_lt hs, hl⟩)) fun f => unpackBody_completes f _
  | classify src =>
    cases src with
    | inBuf =>
      exact checkInputLength_completes fun hl =>
        consumeInput_completes (hw (decide_eq_true hl)) fun q => classifyBody_completes q _
    | outBuf => exact classifyBody_completes _ _
  | seqNext => exact ⟨_, execSeqNext_eq s⟩
  | seqRetry =>
    simp only [exec, execSeqRetry]
    split
    · exact ⟨_, rfl⟩
    · exact raise_completes _ _

/-! ### When a command faults (R68) -/

theorem not_written_iff {s : State} : ¬ Written s ↔ s.input = none := by
  rw [written_iff, ← Option.isSome_iff_exists, Option.not_isSome_iff_eq_none]

/-- The input check and the read after it, on an input that fits and is not written. -/
theorem checkedInput_of_unwritten {s : State} {body : List Byte → Result} (hl : s.inLen.toNat ≤ 1024)
    (hw : ¬ Written s) : checkInputLength s (consumeInput s body) = .fault .uninitInput := by
  rw [checkInputLength_of_le hl, consumeInput_of_none (not_written_iff.1 hw)]

theorem packWith_of_unwritten {build : List Byte → List Byte} {sa : Byte} {s1 : State} (hl : s1.inLen.toNat ≤ 255)
    (hw : ¬ Written s1) : packWith build sa s1 = .fault .uninitInput := by
  rw [packWith, checkPayloadLength_of_le hl]
  exact checkedInput_of_unwritten (Nat.le_trans hl (by decide)) hw

/-- A command that reads an input with an unwritten byte is the fault UNINIT_INPUT. -/
theorem exec_of_unwritten {i : Instr} {s : State} (hc : consumesAt i s.inLen.toNat = true) (hw : ¬ Written s) :
    exec i s = .fault .uninitInput := by
  cases i with
  | cksum | cksumb | stuff => exact checkedInput_of_unwritten (of_decide_eq_true hc) hw
  | pack sa | packs sa => exact packWith_of_unwritten (of_decide_eq_true hc) hw
  | unpack =>
    obtain ⟨hmin, hmax⟩ := of_decide_eq_true hc
    have hs : ¬ (beginCommand 0x06 s).inLen.toNat < Config.minFrame := Nat.not_lt.2 hmin
    simp only [exec, execUnpack]
    rw [if_neg hs]
    exact checkedInput_of_unwritten hmax hw
  | classify src =>
    cases src with
    | inBuf => exact checkedInput_of_unwritten (of_decide_eq_true hc) hw
    | outBuf => cases hc
  | seqNext => cases hc
  | seqRetry => cases hc

/-- The two outcomes of a command. -/
theorem exec_faults_or_completes (i : Instr) (s : State) :
    (consumesAt i s.inLen.toNat = true ∧ ¬ Written s ∧ exec i s = .fault .uninitInput) ∨ Completes (exec i s) := by
  by_cases h : consumesAt i s.inLen.toNat = true ∧ ¬ Written s
  · exact .inl ⟨h.1, h.2, exec_of_unwritten h.1 h.2⟩
  · exact .inr (exec_completes fun hc => not_not.1 fun hw => h ⟨hc, hw⟩)

/-- The lengths at which a command reads IN are lengths of a command that uses IN (R73, R77). -/
theorem usesIn_of_consumesAt {i : Instr} {n : Nat} (h : consumesAt i n = true) : usesIn i = true := by
  cases i with
  | classify src =>
    cases src with
    | inBuf => rfl
    | outBuf => cases h
  | seqNext => cases h
  | seqRetry => cases h
  | _ => rfl

/-! ### When a write to CMD stops -/

/-- The two outcomes of a write to CMD: the fault of the command it issues, or a next state. -/
theorem issue_faults_or_completes (v : Byte) (s : State) :
    (∃ i, decode (cmdWord v s.imm) = .ok i ∧ consumesAt i s.inLen.toNat = true ∧ ¬ Written s ∧
      issue v s = .fault .uninitInput) ∨ Completes (issue v s) := by
  rcases issue_cases v s with ⟨i, hd, hi⟩ | ⟨op, -, hi⟩
  · rw [hi]
    exact (exec_faults_or_completes i s).imp_left fun h => ⟨i, hd, h⟩
  · rw [hi]
    exact .inr (raise_completes _ _)

/-- A write to CMD of a listed opcode runs its command on the state with the access taken off (R71). -/
theorem step_issue {s : State} {v : Byte} {rest : List BusOp} {i : Instr} (hbus : s.bus = .write 0x001 [v] :: rest)
    (hd : decode (cmdWord v s.imm) = .ok i) : step s = exec i { s with bus := rest } := by
  rw [step_write hbus, locAt_cmd.2 rfl, writeByte, issue, hd]

/-! ### The inverse of the window map (R52) -/

/-- The offset at which R52 puts a location. The reserved offsets are many; this is the lowest of them. -/
def Loc.offset : Loc → Nat
  | .imm => 0x000
  | .cmd => 0x001
  | .err => 0x002
  | .ctxv => 0x003
  | .crcLo => 0x004
  | .crcHi => 0x005
  | .rcvLo => 0x006
  | .rcvHi => 0x007
  | .fbyte => 0x008
  | .flen => 0x009
  | .rcode => 0x00A
  | .rclass => 0x00B
  | .subcode => 0x00C
  | .reserved => 0x00D
  | .inLenLo => 0x00E
  | .inLenHi => 0x00F
  | .outLenLo => 0x010
  | .outLenHi => 0x011
  | .seqaddr => 0x012
  | .lastseq => 0x013
  | .seqstat => 0x014
  | .inByte i => 0x400 + i
  | .outByte i => 0x800 + i

theorem registerAt_offset {a : Nat} (h : registerAt a ≠ .reserved) : (registerAt a).offset = a := by
  revert h
  unfold registerAt
  split <;> simp [Loc.offset]

/-- Every offset that is not reserved is the offset of its location. -/
theorem locAt_offset {off : Offset} (h : locAt off ≠ .reserved) : (locAt off).offset = off.toNat := by
  rcases Nat.lt_or_ge off.toNat 0x400 with h1 | h1
  · rw [locAt_register h1] at h ⊢
    exact registerAt_offset h
  · rcases Nat.lt_or_ge off.toNat 0x800 with h2 | h2
    · rw [locAt_in h1 h2]
      exact Nat.add_sub_cancel' h1
    · rw [locAt_out h2]
      exact Nat.add_sub_cancel' h2

/-- The offset of a location that is not reserved. -/
theorem toNat_of_locAt {off : Offset} {l : Loc} (hl : locAt off = l) (hne : l ≠ .reserved) : off.toNat = l.offset := by
  subst hl
  exact (locAt_offset hne).symm

theorem registerAt_of_ge {a : Nat} (h : 0x015 ≤ a) : registerAt a = .reserved := by
  obtain ⟨k, rfl⟩ := Nat.exists_eq_add_of_le' h
  rfl

/-- The reserved offsets of R52 are at the reserved location. -/
theorem locAt_reserved {off : Offset} (h : Claims.reservedOffset off = true) : locAt off = .reserved := by
  rcases of_decide_eq_true h with h | ⟨hlo, hhi⟩
  · rw [locAt_register (by omega), h]
    rfl
  · rw [locAt_register hhi, registerAt_of_ge hlo]

/-! ### Reads and writes, location by location (R52 to R54, R59, R66) -/

theorem step_read_one {s : State} {off : Offset} {rest : List BusOp} (h : s.bus = .read 1 off :: rest) :
    step s = .next
      { s with bus := rest, replies := s.replies ++ [readByte (locAt off) { s with bus := rest }] } := by
  rw [step_read h]
  exact if_pos rfl

/-- What a read returns does not depend on the host's side. -/
theorem readByte_hostSide (l : Loc) (s : State) (bus : List BusOp) (replies : List Byte) :
    readByte l { s with bus := bus, replies := replies } = readByte l s := by
  cases l <;> rfl

theorem readByte_inByte {s : State} {i : Nat} {b : Byte} (h : s.inBuf.read i = some b) :
    readByte (.inByte i) s = b := by
  rw [readByte, State.inRead, h, Option.getD_some]

theorem readByte_outByte {s : State} {i : Nat} {b : Byte} (hi : i < s.outLen.toNat)
    (h : s.outBuf.read i = some b) : readByte (.outByte i) s = b := by
  rw [readByte, State.outRead, if_pos hi, State.resultByte, h, Option.getD_some]

/-- A write to a read-only or reserved offset changes nothing (R53, R54). -/
theorem writeByte_ignored {off : Offset} (h : Claims.ignoresWrites off = true) (v : Byte) (s : State) :
    writeByte (locAt off) v s = .next s := by
  have h := of_decide_eq_true h
  cases hl : locAt off with
  | imm | cmd | inLenLo | inLenHi | seqaddr =>
    have := toNat_of_locAt hl (by simp)
    simp only [Loc.offset] at this
    omega
  | inByte i =>
    obtain ⟨hi, ho⟩ := locAt_inByte hl
    omega
  | _ => rfl

theorem storedAt_inBuf {l : Loc} (hl : ∀ i, l ≠ .inByte i) (v : Byte) (s : State) :
    (storedAt l v s).inBuf = s.inBuf := by
  cases l with
  | inByte i => exact absurd rfl (hl i)
  | _ => rfl

theorem storedAt_inLen {l : Loc} (hlo : l ≠ .inLenLo) (hhi : l ≠ .inLenHi) (v : Byte) (s : State) :
    (storedAt l v s).inLen = s.inLen := by
  cases l with
  | inLenLo => exact absurd rfl hlo
  | inLenHi => exact absurd rfl hhi
  | _ => rfl

end Sys2Proof.Machine

/-! ### The obligations -/

namespace Sys2Proof.Claims

open Sys2Proof.Machine

/-- Settles O7: by `step_cases` a one-byte access is idle, a read, a write or RESET, and of these only a write to CMD
could stop, which `issue_faults_or_completes` says is never a refusal. -/
theorem stepRefusesExactlyOtherSizes : Obligations.StepRefusesExactlyOtherSizes := by
  intro s
  constructor
  · rintro ⟨r, h⟩
    have hcases := step_cases s
    rw [h] at hcases
    rcases hcases with ⟨-, ⟨⟩⟩ | ⟨_, _, -, ⟨⟩⟩ | ⟨_, v, rest, -, -, hissue⟩ | ⟨_, _, _, -, -, ⟨⟩⟩ | ⟨_, -, ⟨⟩⟩ |
      ⟨op, rest, _, hbus, hwf, -⟩
    · rcases issue_faults_or_completes v { s with bus := rest } with ⟨_, -, -, -, hf⟩ | ⟨t, ht⟩
      · exact nomatch hissue.trans hf
      · exact nomatch hissue.trans ht
    · exact ⟨op, rest, hbus, hwf⟩
  · rintro ⟨op, rest, hbus, hwf⟩
    have hcases := step_cases s
    rw [hbus] at hcases
    rcases hcases with ⟨⟨⟩, -⟩ | ⟨_, _, ⟨⟩, -⟩ | ⟨_, _, _, ⟨⟩, -, -⟩ | ⟨_, _, _, ⟨⟩, -, -⟩ | ⟨_, ⟨⟩, -⟩ |
      ⟨_, _, n, -, -, h⟩
    case inr.inr.inr.inr.inr => exact ⟨_, h⟩
    all_goals cases hwf

/-- Settles O8: only a write to CMD can fault, and it does exactly when its command reads an unwritten input. -/
theorem stepFaultsExactlyOnUnwrittenInput : Obligations.StepFaultsExactlyOnUnwrittenInput := by
  intro s
  constructor
  · rintro ⟨f, h⟩
    have hcases := step_cases s
    rw [h] at hcases
    rcases hcases with ⟨-, ⟨⟩⟩ | ⟨_, _, -, ⟨⟩⟩ | ⟨off, v, rest, hbus, hcmd, hissue⟩ | ⟨_, _, _, -, -, ⟨⟩⟩ |
      ⟨_, -, ⟨⟩⟩ | ⟨_, _, _, -, -, ⟨⟩⟩
    rcases issue_faults_or_completes v { s with bus := rest } with ⟨i, hd, hc, hw, -⟩ | ⟨t, ht⟩
    · exact ⟨v, rest, i, locAt_cmd.1 hcmd ▸ hbus, hd, hc, hw⟩
    · exact nomatch hissue.trans ht
  · rintro ⟨v, rest, i, hbus, hd, hc, hw⟩
    exact ⟨.uninitInput, (step_issue hbus hd).trans (exec_of_unwritten hc hw)⟩

/-- Settles O9. -/
theorem unwrittenInputFaults : Obligations.UnwrittenInputFaults := by
  intro i s a hc ha hread
  exact exec_of_unwritten hc (not_written_iff.2 (input_eq_none.2 ⟨a, ha, hread⟩))

/-- Settles O10: a command that reads IN is one that uses it, and then its input is written. -/
theorem everyCommandCompletes : Obligations.EveryCommandCompletes :=
  fun _ _ hw => exec_completes fun hc => hw (usesIn_of_consumesAt hc)

/-- Settles O11: the registers by the window map at their offset, the buffers by the range of theirs. -/
theorem hostReadReturnsTheMappedByte : Obligations.HostReadReturnsTheMappedByte := by
  intro s off rest hbus
  refine ⟨_, step_read_one hbus, ?_, ?_, ?_, ?_, ?_, ?_, ?_, ?_, ?_, ?_, ?_, ?_, ?_, ?_, ?_, ?_, ?_, ?_, ?_, ?_,
    fun hres => ?reserved, fun b hlo hhi hread => ?input, fun b hlo hlen hread => ?output⟩
  case reserved =>
    rw [locAt_reserved hres]
    rfl
  case input =>
    rw [locAt_in hlo hhi]
    exact readByte_inByte hread
  case output =>
    rw [locAt_out hlo]
    exact readByte_outByte hlen hread
  all_goals
    rintro rfl
    rfl

/-- Settles O13. -/
theorem readOnlyAndReservedWritesAreIgnored : Obligations.ReadOnlyAndReservedWritesAreIgnored := by
  refine ⟨fun s off v rest hbus hign => ?_, fun s off rest hbus hres => ?_⟩
  · rw [step_write hbus, writeByte_ignored hign]
  · rw [step_read_one hbus, locAt_reserved hres]
    rfl

/-- Settles O44: commands by `issue_bodyOf`, and a host write reaches IN or IN_LEN only at the offsets of the window
map. -/
theorem noCommandWritesItsInput : Obligations.NoCommandWritesItsInput := by
  intro s t op rest hbus h hreset
  have hcases := step_cases s
  rw [hbus, h] at hcases
  rcases hcases with ⟨⟨⟩, -⟩ | ⟨_, _, ⟨⟩, ⟨⟩⟩ | ⟨_, v, _, ⟨⟩, -, hissue⟩ | ⟨off, v, _, ⟨⟩, -, ⟨⟩⟩ | ⟨_, ⟨⟩, -⟩ |
    ⟨_, _, _, -, -, ⟨⟩⟩
  · exact ⟨fun _ => rfl, fun _ => rfl⟩
  · have body := issue_bodyOf hissue.symm
    exact ⟨fun _ => body.inBuf, fun _ => body.inLen⟩
  · refine ⟨fun hoff => storedAt_inBuf (fun i hl => ?_) v _,
      fun hoff => storedAt_inLen (fun hl => ?_) (fun hl => ?_) v _⟩
    · obtain ⟨hi, ho⟩ := locAt_inByte hl
      have := hoff off v rfl
      omega
    · have ho : off = 0x00E := BitVec.eq_of_toNat_eq (toNat_of_locAt hl (by simp))
      exact (hoff v).1 (by rw [ho])
    · have ho : off = 0x00F := BitVec.eq_of_toNat_eq (toNat_of_locAt hl (by simp))
      exact (hoff v).2 (by rw [ho])
  · exact absurd rfl hreset

/-- Settles O12: the first read changes the host's side only, which the second does not depend on. -/
theorem repeatedReadsAgree : Obligations.RepeatedReadsAgree := by
  intro s off rest hbus
  refine ⟨readByte (locAt off) s, ?_⟩
  rw [steps_succ (step_read_one hbus), steps_succ (step_read_one rfl)]
  simp only [steps, readByte_hostSide, List.append_assoc, List.cons_append, List.nil_append]

/-- Settles O17. -/
theorem windowSitsAtBase : Obligations.WindowSitsAtBase := by
  refine ⟨fun base a ha => ?_, fun base addr hout => ?_⟩
  · rw [windowOffset, if_pos ⟨Nat.le_add_right base a, Nat.add_lt_add_left ha base⟩, Nat.add_sub_cancel_left]
  · have hwindow : ¬ (base ≤ addr ∧ addr < base + 4096) := by omega
    exact if_neg hwindow

end Sys2Proof.Claims
end

section
/-!
PROOFS. The statements about the encoding (`30_encoding.md`): the decoder against the opcode table, the reserved opcodes,
the input length check, the operands of a command and the expansion of LOADIN. Three ideas carry them: `decode_eq_ok_iff`
says by the fields of a word when it decodes to a command, `SameAnswer` relates what a command answers on two states with
the same operands, and `steps_loadBytes` runs the writes of LOADIN one by one.
-/

namespace Sys2Proof.Machine

/-! ### The decoder by the fields of the word (R70, R72, R73) -/

/-- The operand bit of CLASSIFY is SRC, whatever the ignored bits hold (R72). -/
theorem and_one_eq_bit (imm : Byte) : imm &&& 0x01 = (srcField imm).bit := by
  revert imm
  decide

/-- The immediate of an encoding has no bit outside the operand. -/
theorem immediate_and_operandMask (i : Instr) : immediate i &&& operandMask i = immediate i := by
  cases i with
  | pack sa | packs sa => exact BitVec.and_allOnes
  | classify src => exact (and_one_eq_bit src.bit).trans (congrArg Src.bit (srcField_bit src))
  | _ => rfl

/-- The operand of a decoded command is the operand bits of IMM. -/
theorem operand_of_decode {cw : CmdWord} {i : Instr} (h : decode cw = .ok i) :
    immField cw &&& operandMask i = immediate i := by
  unfold decode at h
  split at h <;> cases h
  case h_4 | h_5 => exact BitVec.and_allOnes
  case h_7 => exact and_one_eq_bit _
  all_goals exact BitVec.and_zero

/-- A word with the OP and the operand bits of a command decodes to it, whatever the ignored bits hold. -/
theorem decode_of_fields {cw : CmdWord} {i : Instr} (hop : opField cw = opcode i)
    (himm : immField cw &&& operandMask i = immediate i) : decode cw = .ok i := by
  unfold decode
  rw [hop]
  cases i with
  | pack sa | packs sa =>
    have hsa : immField cw = sa := BitVec.and_allOnes.symm.trans himm
    rw [hsa]
    rfl
  | classify src =>
    have hbit : (srcField (immField cw)).bit = src.bit := (and_one_eq_bit _).symm.trans himm
    have hsrc : srcField (immField cw) = src := by simpa using congrArg srcField hbit
    rw [hsrc]
    rfl
  | _ => rfl

/-- A word decodes to a command exactly when its OP and its operand bits are those of the command. -/
theorem decode_eq_ok_iff {cw : CmdWord} {i : Instr} :
    decode cw = .ok i ↔ opField cw = opcode i ∧ immField cw &&& operandMask i = immediate i :=
  ⟨fun h => ⟨(opcode_of_decode h).symm, operand_of_decode h⟩, fun ⟨hop, himm⟩ => decode_of_fields hop himm⟩

/-! ### The opcode table (R73) -/

/-- The row of a command: OP is compared and IMM is not. -/
def rowOf (i : Instr) : Row := ⟨mnemonic i, cmdWord (opcode i) 0x00, 0xFF00⟩

/-- The table has one row for the mnemonic of a command. -/
theorem row_of_mnemonic_iff {row : Row} {i : Instr} :
    row ∈ opcodeTable ∧ row.mnemonic = mnemonic i ↔ row = rowOf i := by
  have ⟨hmem, hone⟩ : rowOf i ∈ opcodeTable ∧ ∀ r ∈ opcodeTable, r.mnemonic = mnemonic i → r = rowOf i := by
    cases i <;> simp only [rowOf, mnemonic, opcode] <;> decide
  refine ⟨fun ⟨hr, hm⟩ => hone row hr hm, ?_⟩
  rintro rfl
  exact ⟨hmem, rfl⟩

/-- The mask of the rows cuts a word to its OP. -/
theorem and_opMask (cw : CmdWord) : cw &&& 0xFF00 = cmdWord (opField cw) 0x00 :=
  calc cw &&& 0xFF00 = cmdWord (opField cw) (immField cw) &&& cmdWord 0xFF 0x00 := by
        rw [cmdWord_fields]
        rfl
    _ = cmdWord (opField cw &&& 0xFF) (immField cw &&& 0x00) := BitVec.and_append
    _ = cmdWord (opField cw) 0x00 := congrArg₂ cmdWord BitVec.and_allOnes BitVec.and_zero

theorem and_opMask_eq_iff {cw : CmdWord} {op : Byte} : cw &&& 0xFF00 = cmdWord op 0x00 ↔ opField cw = op := by
  rw [and_opMask]
  exact ⟨fun h => by simpa using congrArg opField h, fun h => by rw [h]⟩

/-- A row with the mnemonic of a command matches a word exactly when the word has the command's OP. -/
theorem table_matches_iff {cw : CmdWord} {i : Instr} :
    (∃ row ∈ opcodeTable, row.mnemonic = mnemonic i ∧ cw &&& row.mask = row.bits) ↔ opField cw = opcode i := by
  rw [← and_opMask_eq_iff]
  constructor
  · rintro ⟨row, hrow, hm, h⟩
    obtain rfl := row_of_mnemonic_iff.1 ⟨hrow, hm⟩
    exact h
  · intro h
    obtain ⟨hrow, hm⟩ := (row_of_mnemonic_iff (i := i)).2 rfl
    exact ⟨rowOf i, hrow, hm, h⟩

/-! ### Reserved opcodes (R74) -/

/-- Every word is a command or has a reserved OP, which the decoder then reports. -/
theorem decode_command_or_reserved (cw : CmdWord) :
    (Claims.reservedOpcode (opField cw) = false ∧ ∃ i, decode cw = .ok i) ∨
    (Claims.reservedOpcode (opField cw) = true ∧ decode cw = .error (.reservedOpcode (opField cw))) := by
  cases h : decode cw with
  | ok i =>
    rw [← opcode_of_decode h]
    refine .inl ⟨?_, i, rfl⟩
    cases i <;> rfl
  | error e =>
    obtain ⟨op⟩ := e
    obtain rfl := reserved_of_decode h
    refine .inr ⟨?_, rfl⟩
    simp only [Claims.reservedOpcode, decide_eq_true_eq]
    unfold decode at h
    split at h <;> cases h
    -- what is left is the default arm: OP is none of the nine listed values
    simp only [imp_false] at *
    bv_omega

/-- A write of a reserved opcode to CMD runs as ILLEGAL_COMMAND. -/
theorem issue_reserved {v : Byte} (hv : Claims.reservedOpcode v = true) (s : State) :
    issue v s = illegalCommand v s := by
  rcases decode_command_or_reserved (cmdWord v s.imm) with ⟨hres, -⟩ | ⟨-, hd⟩
  · rw [opField_cmdWord, hv] at hres
    cases hres
  · rw [issue, hd, opField_cmdWord]

/-! ### The input length check (R77) -/

theorem usesIn_eq_false_iff (i : Instr) :
    usesIn i = false ↔ i = .seqNext ∨ i = .seqRetry ∨ i = .classify .outBuf := by
  cases i with
  | classify src => cases src <;> simp [usesIn]
  | _ => simp [usesIn]

/-- With IN_LEN above 1024 a command that uses IN ends at the length check. -/
theorem exec_illegalLength {i : Instr} {s : State} (hu : usesIn i = true) (hl : 1024 < s.inLen.toNat) :
    exec i s = .next ((beginCommand (opcode i) s).setErr .illegalLength) := by
  cases i with
  | classify src =>
    cases src with
    | inBuf => exact checkInputLength_of_gt hl
    | outBuf => cases hu
  | seqNext => cases hu
  | seqRetry => cases hu
  | _ => exact checkInputLength_of_gt hl

/-- The body of CLASSIFY never raises ILLEGAL_LENGTH. -/
theorem classifyBody_err_ne_illegalLength {op : Byte} {q : List Byte} {s t : State}
    (h : classifyBody q (beginCommand op s) = .next t) : t.err ≠ 0x0D := by
  rcases classifyBody_next h with
    ⟨-, rfl⟩ | ⟨_, -, rfl⟩ | ⟨-, rfl⟩ | ⟨_, -, rfl⟩ | ⟨_, _, -, -, rfl⟩ | ⟨_, _, -, -, -, rfl⟩ <;> simp

/-- A command that does not use IN never raises ILLEGAL_LENGTH. -/
theorem exec_err_ne_illegalLength {i : Instr} {s t : State} (hu : usesIn i = false) (h : exec i s = .next t) :
    t.err ≠ 0x0D := by
  rcases (usesIn_eq_false_iff i).1 hu with rfl | rfl | rfl
  · rw [exec, execSeqNext_eq] at h
    cases h
    simp
  · rcases execSeqRetry_next h with ⟨-, rfl⟩ | ⟨-, rfl⟩ <;> simp
  · exact classifyBody_err_ne_illegalLength h

end Sys2Proof.Machine

/-! ### Results depend on the operands alone (R72, R76, R184) -/

namespace Sys2Proof.Claims

open Sys2Proof.Machine

/-- The prologue leaves the same results in states with the same operands: it clears every result and empties OUT. -/
theorem SameOperands.beginCommand {i : Instr} {s1 s2 : State} (h : SameOperands i s1 s2) (op : Byte) :
    SameResults (beginCommand op s1) (beginCommand op s2) :=
  ⟨rfl, rfl, rfl, rfl, rfl, rfl, rfl, rfl, rfl, rfl, h.seqaddr, h.lastseq, h.seqstat, rfl,
    fun a ha => absurd ha (Nat.not_lt_zero a)⟩

theorem SameOperands.input_eq {i : Instr} {s1 s2 : State} (h : SameOperands i s1 s2) : s1.input = s2.input := by
  refine Option.ext fun p => ?_
  rw [input_eq_some, input_eq_some, ← h.inLen]
  refine and_congr_right fun hl => forall_congr' fun a => forall_congr' fun ha => ?_
  rw [h.input a (hl ▸ ha)]

theorem SameOperands.snapshot_eq {s1 s2 : State} (h : SameOperands (.classify .outBuf) s1 s2) :
    s1.snapshot = s2.snapshot := by
  refine List.ext_getElem (by simp [h.outLen rfl]) fun a h1 h2 => ?_
  obtain ⟨b, hb1, hb2⟩ := h.output rfl a (by simpa using h1)
  simp [State.resultByte, hb1, hb2]

/-! What the update functions make of two states with the same results has the same results. -/

section
variable {t1 t2 : State} (h : SameResults t1 t2)
include h

theorem SameResults.setErr (e : ErrCode) : SameResults (t1.setErr e) (t2.setErr e) :=
  { h with err := rfl }

theorem SameResults.setCrc (c : Half) : SameResults (t1.setCrc c) (t2.setCrc c) :=
  { h with crc := rfl, ctxv := congrArg (· ||| crcV) h.ctxv }

theorem SameResults.setRcv (r : Half) : SameResults (t1.setRcv r) (t2.setRcv r) :=
  { h with rcv := rfl, ctxv := congrArg (· ||| rcvV) h.ctxv }

theorem SameResults.setHeader (fb fl : Byte) : SameResults (t1.setHeader fb fl) (t2.setHeader fb fl) :=
  { h with fbyte := rfl, flen := rfl, ctxv := congrArg (· ||| hdrV) h.ctxv }

theorem SameResults.setResponse (code : Byte) (cls : BitVec 4) :
    SameResults (t1.setResponse code cls) (t2.setResponse code cls) :=
  { h with rcode := rfl, rclass := rfl, ctxv := congrArg (· ||| rcV) h.ctxv }

theorem SameResults.setSubcode (sub : Byte) : SameResults (t1.setSubcode sub) (t2.setSubcode sub) :=
  { h with subcode := rfl, ctxv := congrArg (· ||| subV) h.ctxv }

/-- OUT below OUT_LEN is the bytes just written, whatever the stale bytes were. -/
theorem SameResults.setOut (bs : List Byte) : SameResults (t1.setOut bs) (t2.setOut bs) :=
  { h with
    outLen := rfl
    output := fun a ha => by
      have hlt : a < bs.length := Nat.lt_of_lt_of_le ha (by simpa using Nat.mod_le _ _)
      rw [setOut_outBuf, setOut_outBuf, Memory.read_writeSeq, Memory.read_writeSeq, dif_pos hlt, dif_pos hlt] }

theorem SameResults.advanceSeq : SameResults t1.advanceSeq t2.advanceSeq :=
  { h with lastseq := h.seqaddr, seqstat := rfl, seqaddr := congrArg toggleSeq h.seqaddr }

end

/-- When the first answers a next state, so does the second, with the same results. -/
def SameAnswer (r1 r2 : Result) : Prop := ∀ t1, r1 = .next t1 → ∃ t2, r2 = .next t2 ∧ SameResults t1 t2

theorem SameResults.sameAnswer {t1 t2 : State} (h : SameResults t1 t2) : SameAnswer (.next t1) (.next t2) := by
  rintro _ ⟨⟩
  exact ⟨t2, rfl, h⟩

theorem SameResults.raise {t1 t2 : State} (h : SameResults t1 t2) (e : ErrCode) :
    SameAnswer (raise e t1) (raise e t2) :=
  (h.setErr e).sameAnswer

theorem SameAnswer.ite {p1 p2 : Prop} [Decidable p1] [Decidable p2] {a1 a2 b1 b2 : Result} (hp : p1 ↔ p2)
    (ha : SameAnswer a1 a2) (hb : SameAnswer b1 b2) :
    SameAnswer (if p1 then a1 else b1) (if p2 then a2 else b2) := by
  by_cases h : p1
  · rwa [if_pos h, if_pos (hp.1 h)]
  · rwa [if_neg h, if_neg (mt hp.2 h)]

section
variable {s1 s2 : State} {body1 body2 : Result}

theorem sameAnswer_checkInputLength (h : SameResults s1 s2) (hlen : s1.inLen = s2.inLen)
    (hbody : SameAnswer body1 body2) : SameAnswer (checkInputLength s1 body1) (checkInputLength s2 body2) :=
  .ite (by rw [hlen]) (h.raise _) hbody

theorem sameAnswer_checkPayloadLength (h : SameResults s1 s2) (hlen : s1.inLen = s2.inLen)
    (hbody : SameAnswer body1 body2) : SameAnswer (checkPayloadLength s1 body1) (checkPayloadLength s2 body2) :=
  .ite (by rw [hlen]) (h.raise _) hbody

theorem sameAnswer_consumeInput {body1 body2 : List Byte → Result} (hin : s1.input = s2.input)
    (hbody : ∀ p, SameAnswer (body1 p) (body2 p)) : SameAnswer (consumeInput s1 body1) (consumeInput s2 body2) := by
  intro t1 h
  obtain ⟨p, hp, h⟩ := consumeInput_next h
  rw [consumeInput_of_some (hin ▸ hp)]
  exact hbody p t1 h

end

theorem sameAnswer_unpackBody {s1 s2 : State} (h : SameResults s1 s2) (f : List Byte) :
    SameAnswer (unpackBody f s1) (unpackBody f s2) :=
  have header := h.setHeader (f.getD 0 0) (f.getD 2 0)
  have checked := (header.setCrc (expectedChecksum f)).setRcv (receivedChecksum f)
  .ite .rfl (header.raise _) (.ite .rfl (checked.raise _) (checked.setOut _).sameAnswer)

theorem sameAnswer_classifyBody {s1 s2 : State} (h : SameResults s1 s2) (q : List Byte) :
    SameAnswer (classifyBody q s1) (classifyBody q s2) := by
  cases q with
  | nil => exact h.raise _
  | cons code rest =>
    have response := h.setResponse code (rclass code)
    refine .ite .rfl (response.setOut rest).sameAnswer (.ite .rfl ?_ (response.raise _))
    cases rest with
    | nil => exact response.raise _
    | cons sub rest =>
      have subcode := response.setSubcode sub
      exact .ite .rfl (subcode.raise _) (subcode.raise _)

/-- Steps 3 and 4 of a command that uses IN, then a body with the same answer on the same input. -/
theorem SameOperands.checkedInput {i : Instr} {s1 s2 : State} (h : SameOperands i s1 s2) (op : Byte)
    {body1 body2 : List Byte → Result} (hbody : ∀ p, SameAnswer (body1 p) (body2 p)) :
    SameAnswer (checkInputLength (Machine.beginCommand op s1) (consumeInput (Machine.beginCommand op s1) body1))
      (checkInputLength (Machine.beginCommand op s2) (consumeInput (Machine.beginCommand op s2) body2)) :=
  sameAnswer_checkInputLength (h.beginCommand op) h.inLen (sameAnswer_consumeInput h.input_eq hbody)

theorem SameOperands.packWith {i : Instr} {s1 s2 : State} (h : SameOperands i s1 s2) (op : Byte)
    (build : List Byte → List Byte) (sa : Byte) :
    SameAnswer (packWith build sa (Machine.beginCommand op s1)) (packWith build sa (Machine.beginCommand op s2)) :=
  have prologue := h.beginCommand op
  sameAnswer_checkInputLength prologue h.inLen <| sameAnswer_checkPayloadLength prologue h.inLen <|
    sameAnswer_consumeInput h.input_eq fun _ => ((prologue.setCrc _).setOut _).sameAnswer

/-- A command gives the same answer on states with the same operands. -/
theorem SameOperands.exec {i : Instr} {s1 s2 : State} (h : SameOperands i s1 s2) :
    SameAnswer (exec i s1) (exec i s2) := by
  have prologue := h.beginCommand (opcode i)
  cases i with
  | cksum => exact h.checkedInput _ fun p => (prologue.setCrc _).sameAnswer
  | cksumb => exact h.checkedInput _ fun p => ((prologue.setCrc _).setOut _).sameAnswer
  | stuff => exact h.checkedInput _ fun p => (prologue.setOut _).sameAnswer
  | pack sa => exact h.packWith _ _ sa
  | packs sa => exact h.packWith _ _ sa
  | unpack =>
    refine sameAnswer_checkInputLength prologue h.inLen (.ite ?_ (prologue.raise _) ?_)
    · rw [beginCommand_inLen, beginCommand_inLen, h.inLen]
    · exact sameAnswer_consumeInput h.input_eq fun f => sameAnswer_unpackBody prologue f
  | classify src =>
    cases src with
    | inBuf => exact h.checkedInput _ fun q => sameAnswer_classifyBody prologue q
    | outBuf =>
      show SameAnswer (classifyBody s1.snapshot _) (classifyBody s2.snapshot _)
      rw [h.snapshot_eq]
      exact sameAnswer_classifyBody prologue _
  | seqNext =>
    simp only [Machine.exec, execSeqNext_eq, h.seqaddr]
    exact (prologue.setOut _).advanceSeq.sameAnswer
  | seqRetry =>
    have hout : SameResults ((Machine.beginCommand 0x09 s1).setOut [s1.lastseq])
        ((Machine.beginCommand 0x09 s2).setOut [s2.lastseq]) := by
      rw [h.lastseq]
      exact prologue.setOut _
    exact .ite (by simp [State.lastV, h.seqstat]) hout.sameAnswer (prologue.raise _)

end Sys2Proof.Claims

/-! ### LOADIN (R80, R183) -/

namespace Sys2Proof.Machine

/-- IN after the bytes `bs` are written one by one from index `i` on. -/
def Memory.writeFrom : Memory → Nat → List Byte → Memory
  | m, _, [] => m
  | m, i, b :: bs => Memory.writeFrom (m.write i b) (i + 1) bs

theorem Memory.read_writeFrom_outside (m : Memory) {i a : Nat} {bs : List Byte} (ha : a < i ∨ i + bs.length ≤ a) :
    (m.writeFrom i bs).read a = m.read a := by
  induction bs generalizing m i with
  | nil => rfl
  | cons b bs ih =>
    simp only [List.length_cons] at ha
    rw [Memory.writeFrom, ih _ (by omega), Memory.read_write_other _ _ (by omega)]

theorem Memory.read_writeFrom_inside (m : Memory) (i : Nat) {bs : List Byte} {k : Nat} (hk : k < bs.length) :
    (m.writeFrom i bs).read (i + k) = some bs[k] := by
  induction bs generalizing m i k with
  | nil => exact absurd hk (Nat.not_lt_zero k)
  | cons b bs ih =>
    rw [Memory.writeFrom]
    cases k with
    | zero =>
      rw [Memory.read_writeFrom_outside _ (by omega), Nat.add_zero, Memory.read_write_same, List.getElem_cons_zero]
    | succ k =>
      rw [List.getElem_cons_succ, ← ih (m.write i b) (i + 1) (Nat.lt_of_succ_lt_succ hk), Nat.add_right_comm,
        Nat.add_assoc]

/-- A step that writes a byte to a location other than CMD stores it. -/
theorem step_stored {s : State} {off : Offset} {v : Byte} {rest : List BusOp} (h : s.bus = .write off [v] :: rest)
    (hne : locAt off ≠ .cmd) : step s = .next (storedAt (locAt off) v { s with bus := rest }) := by
  rw [step_write h, writeByte_eq, if_neg hne]

/-- Offset `0x400 + i` is IN[i] (R52). -/
theorem locAt_inOffset {i : Nat} (hi : i < 1024) : locAt (BitVec.ofNat 12 (0x400 + i)) = .inByte i := by
  have hoff : (BitVec.ofNat 12 (0x400 + i)).toNat = 0x400 + i := by
    rw [BitVec.toNat_ofNat]
    exact Nat.mod_eq_of_lt (by omega)
  rw [locAt_in (by omega) (by omega), hoff, Nat.add_sub_cancel_left]

/-- The byte writes of LOADIN, carried out one by one. -/
theorem steps_loadBytes {s : State} {i : Nat} {bs : List Byte} {rest : List BusOp} (hfit : i + bs.length ≤ 1024)
    (hbus : s.bus = loadBytes i bs ++ rest) :
    steps bs.length s = .next { s with bus := rest, inBuf := s.inBuf.writeFrom i bs } := by
  induction bs generalizing s i with
  | nil =>
    subst hbus
    rfl
  | cons b bs ih =>
    simp only [List.length_cons] at hfit
    have hloc := locAt_inOffset (i := i) (by omega)
    have hstep := step_stored hbus (by simp [hloc])
    rw [hloc] at hstep
    rw [List.length_cons, steps_succ hstep, ih (i := i + 1) (by omega) rfl]
    rfl

/-- The two writes that set IN_LEN. -/
theorem steps_setInLen {s : State} {n : Half} {rest : List BusOp}
    (hbus : s.bus = wr 0x00E (loByte n) :: wr 0x00F (hiByte n) :: rest) :
    steps 2 s = .next { s with bus := rest, inLen := n } := by
  rw [steps_succ (step_stored hbus (by decide)), steps_succ (step_stored rfl (by decide))]
  show Host.Outcome.next { s with
    bus := rest, inLen := joinBytes (hiByte n) (loByte (joinBytes (hiByte s.inLen) (loByte n))) } = _
  rw [loByte_joinBytes, joinBytes_hi_lo]

/-- LOADIN, access by access. -/
theorem steps_loadin {s : State} {bs : List Byte} {rest : List BusOp} (hfit : bs.length ≤ 1024)
    (hbus : s.bus = loadin bs ++ rest) :
    steps (bs.length + 2) s = .next
      { s with bus := rest, inLen := BitVec.ofNat 16 bs.length, inBuf := s.inBuf.writeFrom 0 bs } := by
  rw [loadin, List.append_assoc] at hbus
  rw [steps_add (steps_loadBytes (by omega) hbus)]
  exact steps_setInLen rfl

end Sys2Proof.Machine

/-! ### The obligations -/

namespace Sys2Proof.Claims

open Sys2Proof.Machine

/-- Settles O1: an encoding has the OP and the operand bits of its command. -/
theorem decodeEncodeAgree : Obligations.DecodeEncodeAgree := by
  intro i _
  refine decode_eq_ok_iff.2 ⟨opField_cmdWord _ _, ?_⟩
  rw [encode, immField_cmdWord]
  exact immediate_and_operandMask i

/-- Settles O2: matching the row of a command is having its OP. -/
theorem decodeIsExactlyTheOpcodeTable : Obligations.DecodeIsExactlyTheOpcodeTable := by
  intro cw i
  rw [table_matches_iff]
  exact decode_eq_ok_iff

/-- Settles O5: a word decodes to a command or has a reserved OP. -/
theorem reservedOpcodeIsIllegalCommand : Obligations.ReservedOpcodeIsIllegalCommand := by
  refine ⟨fun s v rest hbus hv => ?_, fun op imm hop => ?_⟩
  · rw [step_write hbus, locAt_cmd.2 rfl, writeByte, issue_reserved hv]
    rfl
  · rcases decode_command_or_reserved (cmdWord op imm) with ⟨-, hd⟩ | ⟨hres, -⟩
    · exact hd
    · rw [opField_cmdWord, hop] at hres
      cases hres

/-- Settles O42: a command that uses IN ends at its length check, and the three others have none. -/
theorem illegalLengthStopsExactlyInputCommands : Obligations.IllegalLengthStopsExactlyInputCommands :=
  ⟨fun _ _ hu hl => exec_illegalLength hu hl, fun _ _ _ hu h => exec_err_ne_illegalLength hu h, usesIn_eq_false_iff⟩

/-- Settles O47: `SameOperands.exec` carries the same results through each operation of the command. -/
theorem resultsDependOnOperandsAlone : Obligations.ResultsDependOnOperandsAlone :=
  fun _ _ _ t1 hsame h => hsame.exec t1 h

/-- Settles O48: the bytes go to IN in order, then IN_LEN is set to their number. -/
theorem loadinLoadsTheInput : Obligations.LoadinLoadsTheInput := by
  intro s bs rest hfit hbus
  refine ⟨_, steps_loadin hfit hbus, ⟨?_, fun k hk => ?_⟩, fun a ha => ?_, rfl⟩
  · exact (Nat.mod_eq_of_lt (Nat.lt_of_le_of_lt hfit (by decide))).symm
  · simpa using Memory.read_writeFrom_inside s.inBuf 0 hk
  · exact Memory.read_writeFrom_outside _ (by omega)

/-- Settles O3, each word by running the decoder. -/
theorem sampleWordsDecode : Obligations.SampleWordsDecode :=
  ⟨rfl, rfl, rfl, rfl, rfl, rfl, rfl, rfl⟩

/-- Settles O4: `step_issue`, the command word written as its two bytes. -/
theorem stepRunsTheIssuedCommand : Obligations.StepRunsTheIssuedCommand :=
  fun _ _ _ _ hbus hd => step_issue hbus hd

end Sys2Proof.Claims
end

section
/-!
PROOFS. The statements about the checksum engine (`40_checksum.md`): what CKSUM and CKSUMB do, and two laws of the
checksum. One shift step commutes with XOR (`crcShift_xor`) and loses no bit of the register (`crcShift_injective`);
eight steps make a byte and a fold makes a sequence, and both facts pass through.
-/

namespace Sys2Proof.Machine

/-! ### One shift step (R100, R104) -/

/-- What a shift step XORs into the shifted register: the polynomial when the top bit is 1. -/
def crcReduction (c : Half) : Half := if c.getLsbD 15 then Config.crcPoly else 0

theorem crcShift_eq_xor (c : Half) : crcShift c = (c <<< 1) ^^^ crcReduction c := by
  unfold crcShift crcReduction
  split
  · rfl
  · exact BitVec.xor_zero.symm

theorem crcReduction_xor (c d : Half) : crcReduction (c ^^^ d) = crcReduction c ^^^ crcReduction d := by
  simp only [crcReduction, BitVec.getLsbD_xor]
  cases c.getLsbD 15 <;> cases d.getLsbD 15 <;> rfl

/-- Shifting and reducing by the polynomial are both linear over XOR. -/
theorem crcShift_xor (c d : Half) : crcShift (c ^^^ d) = crcShift c ^^^ crcShift d := by
  simp only [crcShift_eq_xor, BitVec.shiftLeft_xor_distrib, crcReduction_xor]
  ac_rfl

/-- The polynomial is odd, so the bit shifted out comes back at the bottom. -/
theorem getLsbD_zero_crcShift (c : Half) : (crcShift c).getLsbD 0 = c.getLsbD 15 := by
  have hred : (crcReduction c).getLsbD 0 = c.getLsbD 15 := by
    unfold crcReduction
    cases c.getLsbD 15 <;> rfl
  rw [crcShift_eq_xor, BitVec.getLsbD_xor, hred, BitVec.getLsbD_shiftLeft]
  exact Bool.false_xor _

/-- A shift step loses nothing: its result tells the bit shifted out, and so the fifteen others. -/
theorem crcShift_injective : Function.Injective crcShift := by
  intro c d h
  have htop : c.getLsbD 15 = d.getLsbD 15 := by
    rw [← getLsbD_zero_crcShift, h, getLsbD_zero_crcShift]
  have hshift : c <<< 1 = d <<< 1 := by
    have hred : crcReduction c = crcReduction d := by rw [crcReduction, crcReduction, htop]
    rw [crcShift_eq_xor, crcShift_eq_xor, hred] at h
    exact (BitVec.xor_left_inj _).1 h
  refine BitVec.eq_of_getLsbD_eq fun i hi => ?_
  by_cases hlast : i = 15
  · rw [hlast, htop]
  · have hbit := congrArg (·.getLsbD (i + 1)) hshift
    simpa [BitVec.getLsbD_shiftLeft, hi, show i + 1 < 16 by omega] using hbit

/-! ### One byte -/

theorem crcShifts_xor (n : Nat) (c d : Half) : crcShifts n (c ^^^ d) = crcShifts n c ^^^ crcShifts n d := by
  induction n generalizing c d with
  | zero => rfl
  | succ n ih => simp only [crcShifts, crcShift_xor, ih]

theorem crcShifts_injective (n : Nat) : Function.Injective (crcShifts n) := by
  induction n with
  | zero => exact Function.injective_id
  | succ n ih => exact ih.comp crcShift_injective

/-- The step of one byte is linear in the register and the byte together. -/
theorem crcByte_xor (c d : Half) (a b : Byte) : crcByte (c ^^^ d) (a ^^^ b) = crcByte c a ^^^ crcByte d b := by
  rw [crcByte, crcByte, crcByte, ← crcShifts_xor, BitVec.setWidth_xor, BitVec.shiftLeft_xor_distrib]
  congr 1
  ac_rfl

theorem crcByte_injective_register (b : Byte) : Function.Injective (crcByte · b) :=
  fun _ _ h => (BitVec.xor_left_inj _).1 (crcShifts_injective 8 h)

/-- The byte goes whole into the top half of the register. -/
theorem crcByte_injective_byte (c : Half) : Function.Injective (crcByte c) := by
  intro a b h
  have htop : a.setWidth 16 <<< 8 = b.setWidth 16 <<< 8 := (BitVec.xor_right_inj _).1 (crcShifts_injective 8 h)
  refine BitVec.eq_of_getLsbD_eq fun i hi => ?_
  have hbit := congrArg (·.getLsbD (i + 8)) htop
  simpa [BitVec.getLsbD_shiftLeft, BitVec.getLsbD_setWidth, hi, show i + 8 < 16 by omega] using hbit

/-! ### A sequence -/

theorem foldl_crcByte_xor {xs ys : List Byte} (hlen : xs.length = ys.length) (c d : Half) :
    (List.zipWith (· ^^^ ·) xs ys).foldl crcByte (c ^^^ d) = xs.foldl crcByte c ^^^ ys.foldl crcByte d := by
  induction xs generalizing ys c d with
  | nil =>
    obtain rfl := List.length_eq_zero_iff.1 hlen.symm
    rfl
  | cons x xs ih =>
    cases ys with
    | nil => cases hlen
    | cons y ys =>
      simp only [List.zipWith_cons_cons, List.foldl_cons, crcByte_xor]
      exact ih (Nat.succ.inj hlen) _ _

theorem foldl_crcByte_injective (bs : List Byte) : Function.Injective (bs.foldl crcByte) := by
  induction bs with
  | nil => exact Function.injective_id
  | cons b bs ih => exact ih.comp (crcByte_injective_register b)

theorem crc16_eq_foldl (bs : List Byte) : crc16 bs = bs.foldl crcByte Config.crcInit := BitVec.xor_zero

theorem zipWith_xor_zeros (bs : List Byte) : List.zipWith (· ^^^ ·) bs (List.replicate bs.length 0x00) = bs := by
  induction bs with
  | nil => rfl
  | cons b bs ih => exact congrArg₂ List.cons BitVec.xor_zero ih

/-! ### The vectors of R102 and R103 -/

/-- The checksum of the empty input is the initial register. -/
theorem crc16_nil : crc16 [] = 0xFFFF := rfl

/-- The input of the examples. -/
theorem crc16_example : crc16 [0x00, 0x01, 0x21] = 0x08C6 := by decide +kernel

/-! ### The command word of an opcode (R70, R74) -/

/-- A word made of the OP and the operand bits of a command decodes to it, whatever the ignored bits of IMM hold. -/
theorem decode_cmdWord {i : Instr} {imm : Byte} (h : imm &&& operandMask i = immediate i) :
    decode (cmdWord (opcode i) imm) = .ok i :=
  decode_of_fields (opField_cmdWord _ _) (by rwa [immField_cmdWord])

end Sys2Proof.Machine

/-! ### A command on its input -/

namespace Sys2Proof.Claims

open Sys2Proof.Machine

/-- The input check and the read after it, on an input that fits and is written. -/
theorem InputIs.checkedInput {s : State} {p : List Byte} (h : InputIs s p) (hl : p.length ≤ 1024)
    (body : List Byte → Result) : checkInputLength s (consumeInput s body) = body p := by
  rw [checkInputLength_of_le (h.1 ▸ hl), consumeInput_of_some (input_eq_some.2 h)]

/-- The checksum is the first result after the prologue, so CTXV holds CRC_V alone (R26). -/
theorem setCrc_beginCommand (op : Byte) (c : Half) (s : State) :
    (beginCommand op s).setCrc c = { afterPrologue op s with crc := c, ctxv := 0x01 } := by
  simp [State.setCrc, beginCommand, afterPrologue]

/-- CKSUM on a written input that fits (R102). -/
theorem exec_cksum {s : State} {p : List Byte} (h : InputIs s p) (hl : p.length ≤ 1024) :
    exec .cksum s = .next { afterPrologue 0x01 s with crc := crc16 p, ctxv := 0x01 } := by
  rw [← setCrc_beginCommand]
  exact InputIs.checkedInput (s := beginCommand 0x01 s) h hl fun q => .next ((beginCommand 0x01 s).setCrc (crc16 q))

/-- CKSUMB on a written input that fits (R103). -/
theorem exec_cksumb {s : State} {p : List Byte} (h : InputIs s p) (hl : p.length ≤ 1024) :
    exec .cksumb s =
      .next (State.setOut (cksumBytes p) { afterPrologue 0x02 s with crc := crc16 p, ctxv := 0x01 }) := by
  rw [← setCrc_beginCommand]
  exact InputIs.checkedInput (s := beginCommand 0x02 s) h hl fun q =>
    .next (((beginCommand 0x02 s).setCrc (crc16 q)).setOut (cksumBytes q))

/-- Every command that uses IN stops with ILLEGAL_LENGTH above 1024, the rest of its next state being the prologue's. -/
theorem exec_illegalLength_afterPrologue {i : Instr} {s : State} (hu : usesIn i = true) (hl : 1024 < s.inLen.toNat) :
    exec i s = .next { afterPrologue (opcode i) s with err := 0x0D } :=
  exec_illegalLength hu hl

/-- `setOut` on a state with the OUT bytes of `s`. -/
theorem writesOut_setOut {s s1 : State} {bs : List Byte} (hlen : bs.length < 65536) (hout : s1.outBuf = s.outBuf) :
    WritesOut s (s1.setOut bs) bs := by
  refine ⟨toNat_outLen_setOut hlen s1, fun i hi => ?_, fun a ha => ?_⟩
  · rw [setOut_outBuf, Memory.read_writeSeq, dif_pos hi]
  · rw [setOut_outBuf, Memory.read_writeSeq, dif_neg (Nat.not_lt.2 ha), hout]

/-! ### The obligations -/

/-- Settles O18: the input passes the length check, is read whole, and its checksum is the one result. -/
theorem cksumComputesTheChecksum : Obligations.CksumComputesTheChecksum :=
  ⟨fun _ => decode_cmdWord (i := .cksum) BitVec.and_zero,
    fun _ _ hl hin => exec_cksum hin hl,
    fun _ hl => exec_illegalLength_afterPrologue (i := .cksum) rfl hl,
    crc16_nil, crc16_example⟩

/-- Settles O19: as for CKSUM, with the two bytes of the checksum written to OUT. -/
theorem cksumbEmitsTheChecksumLowByteFirst : Obligations.CksumbEmitsTheChecksumLowByteFirst := by
  refine ⟨fun _ => decode_cmdWord (i := .cksumb) BitVec.and_zero, fun s p hl hin => ?_,
    fun _ hl => exec_illegalLength_afterPrologue (i := .cksumb) rfl hl, ?_, ?_⟩
  · exact ⟨_, exec_cksumb hin hl, rfl, writesOut_setOut (bs := cksumBytes p) (by simp) rfl, rfl⟩
  · rw [cksumBytes, crc16_nil]
    rfl
  · rw [cksumBytes, crc16_example]
    rfl

/-- Settles O20: the fold of a bytewise XOR splits, and the initial register is the XOR of three copies of itself. -/
theorem checksumIsCarryLess : Obligations.ChecksumIsCarryLess := by
  intro xs ys hlen
  have hzip : (List.zipWith (· ^^^ ·) xs ys).length = xs.length := by simp [hlen]
  simp only [crc16_eq_foldl]
  calc (List.zipWith (· ^^^ ·) xs ys).foldl crcByte Config.crcInit
      = (List.zipWith (· ^^^ ·) (List.zipWith (· ^^^ ·) xs ys) (List.replicate xs.length 0x00)).foldl crcByte
          (Config.crcInit ^^^ Config.crcInit ^^^ Config.crcInit) := by
        rw [← hzip, zipWith_xor_zeros, BitVec.xor_self, BitVec.zero_xor]
    _ = xs.foldl crcByte Config.crcInit ^^^ ys.foldl crcByte Config.crcInit ^^^
          (List.replicate xs.length 0x00).foldl crcByte Config.crcInit := by
        rw [foldl_crcByte_xor (by simp [hlen]), foldl_crcByte_xor hlen]

/-- Settles O21: the changed byte changes the register, and no later byte makes two registers equal again. -/
theorem checksumSeesAnySingleByteChange : Obligations.ChecksumSeesAnySingleByteChange := by
  intro xs ys a b hab h
  simp only [crc16_eq_foldl, List.foldl_append, List.foldl_cons] at h
  exact hab (crcByte_injective_byte _ (foldl_crcByte_injective ys h))

end Sys2Proof.Claims
end

section
/-!
PROOFS. The statements about the byte stuffer (`41_stuffer.md`). The recursion of `stuff` read as two rules, for a MARKER
and for any other byte, carries the laws of stuffing: its length counts the markers (`length_stuff`), and the first
byte of a stuffed sequence tells which rule made it (`stuff_injective`).
-/

namespace Sys2Proof.Machine

/-! ### One byte (R110) -/

theorem stuff_marker_cons (bs : List Byte) : stuff (0x7F :: bs) = 0x7F :: 0x7F :: stuff bs := rfl

theorem stuff_cons_of_ne {b : Byte} (h : b ≠ 0x7F) (bs : List Byte) : stuff (b :: bs) = b :: stuff bs :=
  if_neg h

/-! ### A sequence (R112) -/

theorem length_stuff (bs : List Byte) : (stuff bs).length = bs.length + bs.count 0x7F := by
  induction bs with
  | nil => rfl
  | cons b bs ih =>
    by_cases hb : b = 0x7F
    · subst hb
      simp only [stuff_marker_cons, List.length_cons, List.count_cons_self, ih]
      omega
    · simp only [stuff_cons_of_ne hb, List.length_cons, List.count_cons_of_ne hb, ih]
      omega

/-- Stuffing keeps the first byte, and leaves nothing only of nothing. -/
theorem head?_stuff (bs : List Byte) : (stuff bs).head? = bs.head? := by
  cases bs with
  | nil => rfl
  | cons b bs =>
    by_cases hb : b = 0x7F
    · rw [hb]
      rfl
    · rw [stuff_cons_of_ne hb, List.head?_cons, List.head?_cons]

theorem head?_eq_of_stuff_eq {xs ys : List Byte} (h : stuff xs = stuff ys) : xs.head? = ys.head? := by
  rw [← head?_stuff, h, head?_stuff]

theorem stuff_cons_cancel (b : Byte) {xs ys : List Byte} (h : stuff (b :: xs) = stuff (b :: ys)) :
    stuff xs = stuff ys := by
  by_cases hb : b = 0x7F
  · subst hb
    exact List.append_cancel_left (as := [0x7F, 0x7F]) h
  · rw [stuff_cons_of_ne hb, stuff_cons_of_ne hb] at h
    exact List.tail_eq_of_cons_eq h

/-- The first byte of a stuffed sequence tells the first byte of the source, and so how much to remove for it. -/
theorem stuff_injective : Function.Injective stuff := by
  intro xs ys h
  induction xs generalizing ys with
  | nil => exact (List.head?_eq_none_iff.1 (head?_eq_of_stuff_eq h.symm)).symm
  | cons x xs ih =>
    obtain ⟨ys, rfl⟩ := List.head?_eq_some_iff.1 (head?_eq_of_stuff_eq h.symm)
    rw [ih (stuff_cons_cancel x h)]

/-- The corner case of R111: markers alone are doubled in number. -/
theorem stuff_replicate_marker (n : Nat) : stuff (List.replicate n 0x7F) = List.replicate (2 * n) 0x7F := by
  induction n with
  | zero => rfl
  | succ n ih => rw [List.replicate_succ, stuff_marker_cons, ih, Nat.mul_succ, List.replicate_succ, List.replicate_succ]

end Sys2Proof.Machine

namespace Sys2Proof.Claims

open Sys2Proof.Machine

/-! ### STUFF on its input (R111) -/

theorem exec_stuff {s : State} {p : List Byte} (h : InputIs s p) (hl : p.length ≤ 1024) :
    exec .stuff s = .next ((afterPrologue 0x03 s).setOut (stuff p)) :=
  InputIs.checkedInput (s := afterPrologue 0x03 s) h hl fun q => .next ((afterPrologue 0x03 s).setOut (stuff q))

/-! ### The obligations -/

/-- Settles O22, each part by a rule of `stuff`. -/
theorem stuffDoublesEachMarker : Obligations.StuffDoublesEachMarker :=
  ⟨rfl, stuff_marker_cons [], fun _ hb => stuff_cons_of_ne hb [], stuff_append⟩

/-- Settles O23: the added length is the number of markers, from none to as many as there are bytes. -/
theorem stuffLengthLaw : Obligations.StuffLengthLaw := by
  intro bs
  refine ⟨length_stuff bs, le_length_stuff bs, length_stuff_le bs, ?none, ?all⟩
  case none =>
    rw [length_stuff, Nat.add_eq_left, List.count_eq_zero]
  case all =>
    rw [length_stuff, Nat.two_mul, Nat.add_left_cancel_iff, List.count_eq_length]
    simp only [eq_comm]

/-- Settles O24, byte by byte from the left (`stuff_injective`). -/
theorem stuffIsInjective : Obligations.StuffIsInjective :=
  fun _ _ h => stuff_injective h

/-- Settles O25: the input passes the length check, is read whole, and its stuffed form, at most 2048 bytes, is written
to OUT. -/
theorem stuffWritesTheStuffedInput : Obligations.StuffWritesTheStuffedInput := by
  refine ⟨fun _ => decode_cmdWord (i := .stuff) BitVec.and_zero, fun s p hl hin => ?_,
    fun _ hl => exec_illegalLength_afterPrologue (i := .stuff) rfl hl, stuff_replicate_marker 1024, rfl⟩
  have hlen : (stuff p).length < 65536 := by
    have := length_stuff_le p
    omega
  exact ⟨_, exec_stuff hin hl, rfl, writesOut_setOut hlen rfl⟩

end Sys2Proof.Claims
end

section
/-!
PROOFS. The statements about the packet framer (`42_framer.md`). PACK and PACKS share their run on a written payload
(`packWith_of_input`). UNPACK compares two 16-bit checksums where its contract `unpackFrame` compares two byte pairs;
`lastTwo_eq_cksumBytes_iff` says that these tests agree, so both have the same four outcomes under the same conditions.
A packed frame is a header and a payload with two checksum bytes appended, and `receivedChecksum_append` and
`slice_append_checksum` read it back.
-/

namespace Sys2Proof.Machine

/-! ### Frames that are stuffed (R123) -/

theorem stuff_of_not_mem {bs : List Byte} (h : 0x7F ∉ bs) : stuff bs = bs := by
  induction bs with
  | nil => rfl
  | cons b bs ih =>
    rw [List.mem_cons, not_or] at h
    obtain ⟨hb, hbs⟩ := h
    rw [stuff_cons_of_ne (Ne.symm hb), ih hbs]

theorem le_length_packFrameStuffed (p : List Byte) (sa : Byte) : p.length + 5 ≤ (packFrameStuffed p sa).length := by
  have := le_length_stuff (frameCore p sa ++ cksumBytes (frameCore p sa))
  simp only [List.length_append, length_frameCore, length_cksumBytes] at this
  simp only [packFrameStuffed, List.length_cons]
  omega

/-! ### The two checksums of a frame (R124, R125) -/

theorem crcBytes_injective : Function.Injective crcBytes := by
  intro c d h
  obtain ⟨hlo, hhi⟩ : loByte c = loByte d ∧ hiByte c = hiByte d := by simpa [crcBytes] using h
  rw [← joinBytes_hi_lo c, hlo, hhi, joinBytes_hi_lo]

theorem crcBytes_joinBytes (hi lo : Byte) : crcBytes (joinBytes hi lo) = [lo, hi] := by
  simp [crcBytes]

/-- The last two bytes of a frame are the received checksum, low byte first. -/
theorem lastTwo_eq_crcBytes {f : List Byte} (h : 2 ≤ f.length) :
    slice f (f.length - 2) f.length = crcBytes (receivedChecksum f) := by
  have hlo : f.length - 2 < f.length := by omega
  have hhi : f.length - 1 < f.length := by omega
  have hsucc : f.length - 2 + 1 = f.length - 1 := by omega
  have hend : f.length - 1 + 1 = f.length := by omega
  rw [receivedChecksum, crcBytes_joinBytes, slice, List.take_length, List.drop_eq_getElem_cons hlo, hsucc,
    List.drop_eq_getElem_cons hhi, hend, List.drop_length, List.getD_eq_getElem _ _ hlo, List.getD_eq_getElem _ _ hhi]

/-- The contract's comparison of bytes is the command's comparison of registers. -/
theorem lastTwo_eq_cksumBytes_iff {f : List Byte} (h : 2 ≤ f.length) :
    slice f (f.length - 2) f.length = cksumBytes (slice f 1 (f.length - 2)) ↔
      receivedChecksum f = expectedChecksum f := by
  rw [lastTwo_eq_crcBytes h]
  exact crcBytes_injective.eq_iff

/-! ### The fields of a frame by index -/

theorem getD_of_getElem? {f : List Byte} {i : Nat} {b : Byte} (h : f[i]? = some b) : f.getD i 0 = b := by
  rw [List.getD_eq_getElem?_getD, h, Option.getD_some]

theorem receivedChecksum_of_getElem? {f : List Byte} {lo hi : Byte} (hlo : f[f.length - 2]? = some lo)
    (hhi : f[f.length - 1]? = some hi) : receivedChecksum f = hi ++ lo := by
  rw [receivedChecksum, getD_of_getElem? hlo, getD_of_getElem? hhi, joinBytes]

theorem length_framePayload_lt {f : List Byte} (hmax : f.length ≤ 1024) : (framePayload f).length < 65536 := by
  rw [framePayload, length_slice]
  omega

/-! ### The outcomes of the contract (R124), in the order of its tests -/

theorem unpackFrame_tooShort {f : List Byte} (h : f.length < 6) : unpackFrame f = .error .frameTooShort :=
  if_pos h

section
variable {f : List Byte} (hmin : 6 ≤ f.length)
include hmin

theorem unpackFrame_invalidFraming (hmark : f.getD 0 0 ≠ 0x7F) : unpackFrame f = .error .invalidFraming :=
  (if_neg (Nat.not_lt.2 hmin)).trans (if_pos hmark)

theorem unpackFrame_checksumMismatch (hmark : f.getD 0 0 = 0x7F) (hsum : receivedChecksum f ≠ expectedChecksum f) :
    unpackFrame f = .error .checksumMismatch :=
  have hbytes := mt (lastTwo_eq_cksumBytes_iff (Nat.le_trans (by decide) hmin)).1 hsum
  (if_neg (Nat.not_lt.2 hmin)).trans ((if_neg (not_not.2 hmark)).trans (if_pos hbytes))

theorem unpackFrame_valid (hmark : f.getD 0 0 = 0x7F) (hsum : receivedChecksum f = expectedChecksum f) :
    unpackFrame f = .ok (framePayload f) :=
  have hbytes := (lastTwo_eq_cksumBytes_iff (Nat.le_trans (by decide) hmin)).2 hsum
  (if_neg (Nat.not_lt.2 hmin)).trans ((if_neg (not_not.2 hmark)).trans (if_neg (not_not.2 hbytes)))

end

/-! ### Reading back a frame from its parts (R121, R124) -/

theorem slice_append_checksum (g : List Byte) (lo hi : Byte) (a : Nat) :
    slice (g ++ [lo, hi]) a ((g ++ [lo, hi]).length - 2) = g.drop a := by
  simp [slice]

theorem receivedChecksum_append (g : List Byte) (lo hi : Byte) :
    receivedChecksum (g ++ [lo, hi]) = joinBytes hi lo := by
  refine crcBytes_injective ?_
  rw [← lastTwo_eq_crcBytes (by simp), crcBytes_joinBytes, slice, List.take_length]
  simp

theorem receivedChecksum_packFrame (p : List Byte) (sa : Byte) :
    receivedChecksum (packFrame p sa) = crc16 (frameCore p sa) :=
  (receivedChecksum_append _ _ _).trans (joinBytes_hi_lo _)

theorem expectedChecksum_packFrame (p : List Byte) (sa : Byte) :
    expectedChecksum (packFrame p sa) = crc16 (frameCore p sa) :=
  congrArg crc16 (slice_append_checksum (0x7F :: frameCore p sa) _ _ 1)

theorem framePayload_packFrame (p : List Byte) (sa : Byte) : framePayload (packFrame p sa) = p :=
  slice_append_checksum (0x7F :: frameCore p sa) _ _ 3

/-- A packed frame carries the checksum it should. -/
theorem receivedChecksum_packFrame_eq (p : List Byte) (sa : Byte) :
    receivedChecksum (packFrame p sa) = expectedChecksum (packFrame p sa) :=
  (receivedChecksum_packFrame p sa).trans (expectedChecksum_packFrame p sa).symm

theorem six_le_length_packFrame {p : List Byte} (h : 1 ≤ p.length) (sa : Byte) : 6 ≤ (packFrame p sa).length := by
  rw [length_packFrame]
  omega

theorem unpackFrame_packFrame_nil (sa : Byte) : unpackFrame (packFrame [] sa) = .error .frameTooShort :=
  unpackFrame_tooShort (by simp)

/-! ### The outcomes of the body of UNPACK (R125), under the conditions of the contract -/

section
variable {f : List Byte} (s1 : State)

theorem unpackBody_invalidFraming (hmark : f.getD 0 0 ≠ 0x7F) :
    unpackBody f s1 = .next ((s1.setHeader (f.getD 0 0) (f.getD 2 0)).setErr .invalidFraming) :=
  if_pos hmark

theorem unpackBody_checksumMismatch (hmark : f.getD 0 0 = 0x7F) (hsum : receivedChecksum f ≠ expectedChecksum f) :
    unpackBody f s1 = .next ((((s1.setHeader 0x7F (f.getD 2 0)).setCrc (expectedChecksum f)).setRcv
      (receivedChecksum f)).setErr .checksumMismatch) := by
  rw [← hmark]
  exact (if_neg (not_not.2 hmark)).trans (if_pos hsum)

theorem unpackBody_valid (hmark : f.getD 0 0 = 0x7F) (hsum : receivedChecksum f = expectedChecksum f) :
    unpackBody f s1 = .next ((((s1.setHeader 0x7F (f.getD 2 0)).setCrc (expectedChecksum f)).setRcv
      (receivedChecksum f)).setOut (framePayload f)) := by
  rw [← hmark]
  exact (if_neg (not_not.2 hmark)).trans (if_neg (not_not.2 hsum))

end

/-! ### The checks of PACK and PACKS (R122, R123) -/

theorem packWith_payloadTooLong (build : List Byte → List Byte) (sa : Byte) {s1 : State}
    (hlong : 255 < s1.inLen.toNat) (hmax : s1.inLen.toNat ≤ 1024) :
    packWith build sa s1 = .next (s1.setErr .payloadTooLong) :=
  (checkInputLength_of_le hmax).trans (checkPayloadLength_of_gt hlong)

end Sys2Proof.Machine

namespace Sys2Proof.Claims

open Sys2Proof.Machine

/-! ### PACK and PACKS on a payload (R122, R123) -/

/-- The shared part of PACK and PACKS on a written payload of at most 255 bytes. -/
theorem packWith_of_input (build : List Byte → List Byte) (sa op : Byte) {s : State} {p : List Byte}
    (h : InputIs s p) (hl : p.length ≤ 255) :
    packWith build sa (beginCommand op s) = .next
      (State.setOut (build p) { afterPrologue op s with crc := crc16 (frameCore p sa), ctxv := 0x01 }) := by
  have hlen : (beginCommand op s).inLen.toNat ≤ 255 := h.1 ▸ hl
  rw [packWith, checkPayloadLength_of_le hlen, ← setCrc_beginCommand]
  exact InputIs.checkedInput (s := beginCommand op s) h (Nat.le_trans hl (by decide)) fun q =>
    .next (((beginCommand op s).setCrc (crc16 (frameCore q sa))).setOut (build q))

theorem exec_pack (sa : Byte) {s : State} {p : List Byte} (h : InputIs s p) (hl : p.length ≤ 255) :
    exec (.pack sa) s = .next
      (State.setOut (packFrame p sa) { afterPrologue 0x04 s with crc := crc16 (frameCore p sa), ctxv := 0x01 }) :=
  packWith_of_input (packFrame · sa) sa 0x04 h hl

theorem exec_packs (sa : Byte) {s : State} {p : List Byte} (h : InputIs s p) (hl : p.length ≤ 255) :
    exec (.packs sa) s = .next
      (State.setOut (packFrameStuffed p sa)
        { afterPrologue 0x05 s with crc := crc16 (frameCore p sa), ctxv := 0x01 }) :=
  packWith_of_input (packFrameStuffed · sa) sa 0x05 h hl

/-! ### UNPACK on a frame (R125) -/

theorem exec_unpack_tooShort {s : State} (h : s.inLen.toNat < 6) :
    exec .unpack s = .next { afterPrologue 0x06 s with err := 0x01 } :=
  (checkInputLength_of_le (s := beginCommand 0x06 s) (Nat.le_trans (Nat.le_of_lt h) (by decide))).trans (if_pos h)

/-- On a written input of 6 to 1024 bytes UNPACK is its body. -/
theorem exec_unpack {s : State} {f : List Byte} (h : InputIs s f) (hmin : 6 ≤ f.length) (hmax : f.length ≤ 1024) :
    exec .unpack s = unpackBody f (afterPrologue 0x06 s) := by
  have hlen : ¬ (beginCommand 0x06 s).inLen.toNat < Config.minFrame := Nat.not_lt.2 (h.1 ▸ hmin)
  simp only [exec, execUnpack]
  rw [if_neg hlen]
  exact InputIs.checkedInput (s := beginCommand 0x06 s) h hmax fun g => unpackBody g (beginCommand 0x06 s)

theorem setHeader_afterPrologue (op fb fl : Byte) (s : State) :
    (afterPrologue op s).setHeader fb fl = { afterPrologue op s with fbyte := fb, flen := fl, ctxv := 0x04 } := by
  simp [State.setHeader, afterPrologue]

/-- The header and both checksums are written: CTXV holds HDR_V, CRC_V and RCV_V (R26). -/
theorem setChecksums_afterPrologue (op fb fl : Byte) (c r : Half) (s : State) :
    (((afterPrologue op s).setHeader fb fl).setCrc c).setRcv r =
      { afterPrologue op s with fbyte := fb, flen := fl, crc := c, rcv := r, ctxv := 0x07 } := by
  simp [setHeader_afterPrologue, State.setCrc, State.setRcv]

theorem exec_unpack_valid {s : State} {f : List Byte} (h : InputIs s f) (hmin : 6 ≤ f.length) (hmax : f.length ≤ 1024)
    (hmark : f.getD 0 0 = 0x7F) (hsum : receivedChecksum f = expectedChecksum f) :
    exec .unpack s = .next (State.setOut (framePayload f)
      { afterPrologue 0x06 s with
        fbyte := 0x7F, flen := f.getD 2 0, crc := expectedChecksum f, rcv := receivedChecksum f, ctxv := 0x07 }) := by
  rw [exec_unpack h hmin hmax, unpackBody_valid _ hmark hsum, setChecksums_afterPrologue]

/-! ### What a command leaves in OUT -/

/-- A state in which a command wrote no byte of OUT. -/
theorem writesOut_nil {s t : State} (hlen : t.outLen = 0x0000) (hout : t.outBuf = s.outBuf) : WritesOut s t [] :=
  ⟨congrArg BitVec.toNat hlen, fun i hi => absurd hi (Nat.not_lt_zero i), fun a _ => congrArg (·.read a) hout⟩

/-- OUT below OUT_LEN, copied to IN with its length, is the input. -/
theorem WritesOut.inputIs {s t u : State} {bs : List Byte} (h : WritesOut s t bs) (hlen : u.inLen = t.outLen)
    (hcopy : ∀ a, a < t.outLen.toNat → u.inBuf.read a = t.outBuf.read a) : InputIs u bs := by
  obtain ⟨hout, hread, -⟩ := h
  refine ⟨by rw [hlen, hout], fun i hi => ?_⟩
  rw [hcopy i (hout ▸ hi), hread i hi]

/-- `t` reports the outcome `r` of a contract: a payload in OUT with ERR clear, or an error in ERR with no output. -/
def Reports (s t : State) : Except ErrCode (List Byte) → Prop
  | .ok p => t.err = 0x00 ∧ WritesOut s t p
  | .error e => t.err = e.toErr ∧ WritesOut s t []

/-- UNPACK reports the outcome of `unpackFrame`, test by test. -/
theorem exec_unpack_reports {s : State} {f : List Byte} (h : InputIs s f) (hmax : f.length ≤ 1024) :
    ∃ t, exec .unpack s = .next t ∧ Reports s t (unpackFrame f) := by
  rcases Nat.lt_or_ge f.length 6 with hshort | hmin
  · rw [unpackFrame_tooShort hshort, exec_unpack_tooShort (h.1 ▸ hshort)]
    exact ⟨_, rfl, rfl, writesOut_nil rfl rfl⟩
  · rw [exec_unpack h hmin hmax]
    by_cases hmark : f.getD 0 0 = 0x7F
    · by_cases hsum : receivedChecksum f = expectedChecksum f
      · rw [unpackFrame_valid hmin hmark hsum, unpackBody_valid _ hmark hsum]
        exact ⟨_, rfl, rfl, writesOut_setOut (length_framePayload_lt hmax) rfl⟩
      · rw [unpackFrame_checksumMismatch hmin hmark hsum, unpackBody_checksumMismatch _ hmark hsum]
        exact ⟨_, rfl, rfl, writesOut_nil rfl rfl⟩
    · rw [unpackFrame_invalidFraming hmin hmark, unpackBody_invalidFraming _ hmark]
      exact ⟨_, rfl, rfl, writesOut_nil rfl rfl⟩

/-! ### The obligations -/

/-- Settles O26: the payload passes both length checks, is read whole, and its frame is written to OUT. -/
theorem packFramesThePayload : Obligations.PackFramesThePayload := by
  refine ⟨fun imm => decode_cmdWord (i := .pack imm) BitVec.and_allOnes, fun s sa p hl hin => ?_,
    fun _ sa hl => exec_illegalLength_afterPrologue (i := .pack sa) rfl hl,
    fun s sa hlong hmax => packWith_payloadTooLong _ sa (s1 := beginCommand 0x04 s) hlong hmax,
    by decide +kernel, unpackFrame_packFrame_nil, by decide +kernel, by decide +kernel, fun p sa => ⟨_, rfl, rfl⟩⟩
  have hlen : (packFrame p sa).length < 65536 := by
    rw [length_packFrame]
    omega
  exact ⟨_, exec_pack sa hin hl, rfl, writesOut_setOut hlen rfl⟩

/-- Settles O27: as for PACK, with the stuffed frame, whose length is that of the frame and at most one more byte for
each byte after the marker. -/
theorem packsStuffsAfterTheMarker : Obligations.PacksStuffsAfterTheMarker := by
  refine ⟨fun imm => decode_cmdWord (i := .packs imm) BitVec.and_allOnes, fun s sa p hl hin => ?_,
    fun _ sa hl => exec_illegalLength_afterPrologue (i := .packs sa) rfl hl,
    fun s sa hlong hmax => packWith_payloadTooLong _ sa (s1 := beginCommand 0x05 s) hlong hmax,
    fun p sa hmark => congrArg (List.cons 0x7F) (stuff_of_not_mem hmark),
    by decide +kernel, by decide +kernel, by decide +kernel⟩
  have hle := length_packFrameStuffed_le p sa
  have hlen : (packFrameStuffed p sa).length < 65536 := by omega
  refine ⟨_, exec_packs sa hin hl, rfl, writesOut_setOut hlen rfl, ?_⟩
  rw [toNat_outLen_setOut hlen]
  exact ⟨le_length_packFrameStuffed p sa, hle⟩

/-- Settles O28: the two bytes at the end are the checksum of the bytes between, so the body of UNPACK passes both its
tests; no test reads the Length byte. -/
theorem unpackAcceptsAValidFrame : Obligations.UnpackAcceptsAValidFrame := by
  intro s f c hmin hmax hin hmark hc hlo hhi
  have hexp : expectedChecksum f = c := hc.symm
  have hrec : receivedChecksum f = c := (receivedChecksum_of_getElem? hlo hhi).trans (joinBytes_hi_lo c)
  have hflen : f[2]? = some (f.getD 2 0) := by
    rw [List.getD_eq_getElem _ _ (by omega), List.getElem?_eq_getElem]
  have h := exec_unpack_valid hin hmin hmax (getD_of_getElem? hmark) (hrec.trans hexp.symm)
  rw [hrec, hexp] at h
  exact ⟨_, h, rfl, hflen, writesOut_setOut (length_framePayload_lt hmax) rfl⟩

/-- Settles O29, one test at a time. -/
theorem unpackReportsTheFirstFailingTest : Obligations.UnpackReportsTheFirstFailingTest := by
  refine ⟨fun _ => decode_cmdWord (i := .unpack) BitVec.and_zero,
    fun _ hl => exec_illegalLength_afterPrologue (i := .unpack) rfl hl, fun _ hs => exec_unpack_tooShort hs,
    fun s f f0 f2 hmin hmax hin h0 h2 hne => ?framing,
    fun s f f2 lo hi c hmin hmax hin h0 h2 hlo hhi hc hne => ?checksum⟩
  case framing =>
    have hmark : f.getD 0 0 ≠ 0x7F := getD_of_getElem? h0 ▸ hne
    rw [exec_unpack hin hmin hmax, unpackBody_invalidFraming _ hmark, getD_of_getElem? h0, getD_of_getElem? h2,
      setHeader_afterPrologue]
    rfl
  case checksum =>
    have hexp : expectedChecksum f = c := hc.symm
    have hrec : receivedChecksum f = hi ++ lo := receivedChecksum_of_getElem? hlo hhi
    have hsum : receivedChecksum f ≠ expectedChecksum f := hrec ▸ hexp ▸ hne
    rw [exec_unpack hin hmin hmax, unpackBody_checksumMismatch _ (getD_of_getElem? h0) hsum, getD_of_getElem? h2, hexp,
      hrec, setChecksums_afterPrologue]
    rfl

/-- Settles O30: the report of UNPACK, read for each kind of outcome. -/
theorem unpackRefinesItsContract : Obligations.UnpackRefinesItsContract := by
  intro s f hmax hin
  obtain ⟨t, ht, hreport⟩ := exec_unpack_reports hin hmax
  refine ⟨t, ht, fun p hp => ?_, fun e he => ?_⟩
  · rwa [hp] at hreport
  · rwa [he] at hreport

/-- Settles O31: a packed frame of 6 bytes or more passes every test, and its payload is the packed one. -/
theorem frameRoundTrip : Obligations.FrameRoundTrip := by
  refine ⟨fun p sa hpos _ => ?_, unpackFrame_packFrame_nil⟩
  rw [unpackFrame_valid (six_le_length_packFrame hpos sa) rfl (receivedChecksum_packFrame_eq p sa),
    framePayload_packFrame]

/-- Settles O32: the copied output of PACK is a valid frame, so UNPACK accepts it. -/
theorem packThenUnpackReturnsThePayload : Obligations.PackThenUnpackReturnsThePayload := by
  intro s t u sa p hpos hl hin hpack hlen hcopy
  have hmin := six_le_length_packFrame hpos sa
  have hmax : (packFrame p sa).length ≤ 1024 := by
    rw [length_packFrame]
    omega
  rw [exec_pack sa hin hl] at hpack
  cases hpack
  have hframe : InputIs u (packFrame p sa) :=
    (writesOut_setOut (s := s) (Nat.lt_of_le_of_lt hmax (by decide)) rfl).inputIs hlen hcopy
  have h := exec_unpack_valid hframe hmin hmax rfl (receivedChecksum_packFrame_eq p sa)
  rw [receivedChecksum_packFrame, expectedChecksum_packFrame, framePayload_packFrame] at h
  exact ⟨_, h, writesOut_setOut (by omega) rfl, rfl, rfl, rfl, rfl, rfl⟩

/-- Settles O33: the received checksum is the tampered pair of bytes, and no other pair makes the same register. -/
theorem tamperedChecksumIsRejected : Obligations.TamperedChecksumIsRejected := by
  intro p sa lo hi hpos hne
  refine unpackFrame_checksumMismatch ?_ rfl fun hsum => hne ?_
  · simp only [List.length_append, List.length_cons, List.length_nil]
    omega
  · rw [receivedChecksum_append, expectedChecksum, slice_append_checksum] at hsum
    rw [← crcBytes_joinBytes, hsum]
    rfl

end Sys2Proof.Claims
end

section
/-!
PROOFS. The statements about the sequence-toggle register (`43_sequence.md`): SEQ_NEXT, SEQ_RETRY, the host's write to
SEQADDR, and the alternation law. `exec_seqNext` and the two lemmas about SEQ_RETRY give each command's next state; the
alternation law then rests on `toggleSeq` being an involution, iterated once a command.
-/

namespace Sys2Proof.Machine

/-! ### The flag of SEQADDR (R140, R141) -/

@[simp] theorem seqField_seqByte (seq : BitVec 1) (addr : BitVec 7) : seqField (seqByte seq addr) = seq :=
  BitVec.extractLsb'_append_eq_left

@[simp] theorem addrField_seqByte (seq : BitVec 1) (addr : BitVec 7) : addrField (seqByte seq addr) = addr :=
  BitVec.extractLsb'_append_eq_right

/-- Toggling twice restores the sequence byte. -/
theorem toggleSeq_involutive : Function.Involutive toggleSeq := fun b => by
  rw [toggleSeq_eq, toggleSeq_eq, BitVec.xor_assoc, BitVec.xor_self, BitVec.xor_zero]

/-- `k` toggles flip the flag when `k` is odd (R145). -/
theorem toggleSeq_iterate (k : Nat) (b : Byte) : toggleSeq^[k] b = if k % 2 = 0 then b else b ^^^ 0x80 := by
  split
  case isTrue heven => rw [toggleSeq_involutive.iterate_even (Nat.even_iff.2 heven), id]
  case isFalse hodd => rw [toggleSeq_involutive.iterate_odd (Nat.odd_iff.2 (by omega)), toggleSeq_eq]

theorem toggleSeq_iterate_succ (k : Nat) (b : Byte) :
    toggleSeq^[k + 1] b = if k % 2 = 0 then b ^^^ 0x80 else b := by
  rw [Function.iterate_succ_apply', toggleSeq_iterate, apply_ite toggleSeq, ← toggleSeq_eq, toggleSeq_involutive b]

/-- SEQ_NEXT sets LAST_V (R38, R141). -/
@[simp] theorem advanceSeq_lastV (s : State) : s.advanceSeq.lastV = true := by
  rw [State.lastV, advanceSeq_seqstat]
  decide

end Sys2Proof.Machine

namespace Sys2Proof.Claims

open Sys2Proof.Machine

/-! ### The two commands (R141, R142) -/

/-- SEQ_NEXT in any state: OUT from SEQADDR, then the toggle. -/
theorem exec_seqNext (s : State) :
    exec .seqNext s = .next ((afterPrologue 0x08 s).setOut [s.seqaddr]).advanceSeq :=
  execSeqNext_eq s

/-- SEQ_NEXT issues the byte SEQADDR held. -/
theorem writesOut_seqNext (s : State) :
    WritesOut s ((afterPrologue 0x08 s).setOut [s.seqaddr]).advanceSeq [s.seqaddr] :=
  writesOut_setOut (s1 := afterPrologue 0x08 s) (by simp) rfl

/-- What SEQ_NEXT leaves for a SEQ_RETRY after it. -/
theorem seqState_of_seqNext {s t : State} (h : exec .seqNext s = .next t) :
    t.lastV = true ∧ t.lastseq = s.seqaddr ∧ t.seqaddr = toggleSeq s.seqaddr := by
  rw [exec_seqNext] at h
  cases h
  exact ⟨advanceSeq_lastV _, rfl, rfl⟩

/-- SEQ_RETRY after some SEQ_NEXT (LAST_V = 1). -/
theorem exec_seqRetry_of_lastV {s : State} (h : s.lastV = true) :
    exec .seqRetry s = .next ((afterPrologue 0x09 s).setOut [s.lastseq]) :=
  if_pos h

/-- SEQ_RETRY with no SEQ_NEXT since RESET (LAST_V = 0). -/
theorem exec_seqRetry_of_not_lastV {s : State} (h : s.lastV = false) :
    exec .seqRetry s = .next { afterPrologue 0x09 s with err := 0x0B } :=
  if_neg (Bool.eq_false_iff.1 h)

/-- SEQ_RETRY issues the byte LASTSEQ holds. -/
theorem writesOut_seqRetry (s : State) : WritesOut s ((afterPrologue 0x09 s).setOut [s.lastseq]) [s.lastseq] :=
  writesOut_setOut (s1 := afterPrologue 0x09 s) (by simp) rfl

/-- `k` times SEQ_NEXT completes and toggles SEQADDR `k` times. -/
theorem execTimes_seqNext (k : Nat) (s : State) :
    ∃ t, execTimes .seqNext k s = .next t ∧ t.seqaddr = toggleSeq^[k] s.seqaddr := by
  induction k generalizing s with
  | zero => exact ⟨s, rfl, rfl⟩
  | succ k ih =>
    rw [execTimes, exec_seqNext]
    exact ih _

/-! ### The obligations -/

/-- Settles O36: before SEQ_NEXT number `k` SEQADDR has been toggled `k` times, and after it `k + 1` times. -/
theorem sequenceBytesAlternate : Obligations.SequenceBytesAlternate := by
  intro k s
  obtain ⟨t, ht, haddr⟩ := execTimes_seqNext k s
  refine ⟨t, _, ht, exec_seqNext t, ?issued, ?left⟩
  case issued =>
    rw [← toggleSeq_iterate, ← haddr]
    exact writesOut_seqNext t
  case left =>
    rw [← toggleSeq_iterate_succ, Function.iterate_succ_apply', ← haddr]
    rfl

/-- Settles O15: SEQADDR takes the byte whole, so both its fields. -/
theorem seqaddrWriteSetsFlagAndAddress : Obligations.SeqaddrWriteSetsFlagAndAddress := by
  intro s v rest hbus
  have hstep := step_stored hbus (by decide)
  rw [locAt_seqaddr.2 rfl] at hstep
  exact ⟨_, hstep, rfl, rfl, rfl⟩

/-- Settles O34: the next state of `exec_seqNext`, field by field of the toggled SEQADDR. -/
theorem seqNextIssuesThenToggles : Obligations.SeqNextIssuesThenToggles :=
  ⟨fun _ => decode_cmdWord (i := .seqNext) BitVec.and_zero,
    fun s => ⟨_, exec_seqNext s, rfl, seqField_seqByte _ _, addrField_seqByte _ _, toggleSeq_eq _,
      writesOut_seqNext s⟩⟩

/-- Settles O35: after SEQ_NEXT, LASTSEQ is the byte before the toggle, and toggling again gives it back. -/
theorem seqRetryRepeatsWithoutToggling : Obligations.SeqRetryRepeatsWithoutToggling := by
  refine ⟨fun _ => decode_cmdWord (i := .seqRetry) BitVec.and_zero,
    fun s h => ⟨_, exec_seqRetry_of_lastV h, rfl, writesOut_seqRetry s⟩,
    fun s h => exec_seqRetry_of_not_lastV h, fun s t h => ?afterNext⟩
  case afterNext =>
    obtain ⟨hv, hlast, haddr⟩ := seqState_of_seqNext h
    have hback : t.seqaddr ^^^ 0x80 = s.seqaddr := by rw [← toggleSeq_eq, haddr, toggleSeq_involutive]
    refine ⟨_, exec_seqRetry_of_lastV hv, ?_, hback⟩
    rw [hback, ← hlast]
    exact writesOut_seqRetry t

end Sys2Proof.Claims
end

section
/-!
PROOFS. The statements about the response classifier (`44_classifier.md`): the table of R151, CLASSIFY of IN and of OUT,
and the contract of R152. `exec_classify_in` and `exec_classify_out` bring both sources to the body of CLASSIFY on the
payload; one equation per branch of the body then gives its effect, and `readOutcome_of_classifyBody`
says what the host reads.
-/

namespace Sys2Proof.Machine

/-! ### The response-code decoder (R150, R151) -/

/-- A code that no row lists has no class. -/
theorem classIn_eq_noClass {rows : List CatalogRow} {code : Byte} (h : ∀ row ∈ rows, row.code ≠ code) :
    classIn rows code = noClass := by
  induction rows with
  | nil => rfl
  | cons row rows ih =>
    obtain ⟨hrow, hrows⟩ := List.forall_mem_cons.1 h
    rw [classIn, if_neg hrow, ih hrows]

/-! ### The command word of CLASSIFY (R72, R73) -/

theorem decode_classify (imm : Byte) : decode (0x07#8 ++ imm) = .ok (.classify (srcField imm)) :=
  decode_cmdWord (i := .classify (srcField imm)) (and_one_eq_bit imm)

theorem srcField_of_clear {imm : Byte} (h : imm.getLsbD 0 = false) : srcField imm = .inBuf :=
  if_neg (Bool.eq_false_iff.1 h)

theorem srcField_of_set {imm : Byte} (h : imm.getLsbD 0 = true) : srcField imm = .outBuf := if_pos h

/-! ### The body of CLASSIFY (R153), an equation for each of its branches -/

section

variable (s1 : State)

theorem classifyBody_emptyPayload : classifyBody [] s1 = .next (s1.setErr .emptyPayload) := rfl

theorem classifyBody_success (rest : List Byte) :
    classifyBody (0xF0 :: rest) s1 = .next ((s1.setResponse 0xF0 0x0).setOut rest) := rfl

theorem classifyBody_noSubcode :
    classifyBody [0xF5] s1 = .next ((s1.setResponse 0xF5 0x4).setErr .cannotProcess) := rfl

theorem classifyBody_deviceBusy (rest : List Byte) :
    classifyBody (0xF5 :: 0x03 :: rest) s1 =
      .next (((s1.setResponse 0xF5 0x4).setSubcode 0x03).setErr .deviceBusy) := rfl

theorem classifyBody_subcode {sub : Byte} (hsub : sub ≠ 0x03) (rest : List Byte) :
    classifyBody (0xF5 :: sub :: rest) s1 =
      .next (((s1.setResponse 0xF5 0x4).setSubcode sub).setErr .cannotProcess) :=
  if_neg hsub

theorem classifyBody_protocolError {code : Byte} (hok : code ≠ 0xF0) (hcp : code ≠ 0xF5) (rest : List Byte) :
    classifyBody (code :: rest) s1 = .next ((s1.setResponse code (rclass code)).setErr .protocolError) :=
  (if_neg hok).trans (if_neg hcp)

end

/-! ### The contract (R152) and how the host reads it (R154) -/

theorem classify_subcode {sub : Byte} (hsub : sub ≠ 0x03) (rest : List Byte) :
    classify (0xF5 :: sub :: rest) = .cannotProcess (some sub) :=
  if_neg hsub

theorem classify_protocolError {code : Byte} (hok : code ≠ 0xF0) (hcp : code ≠ 0xF5) (rest : List Byte) :
    classify (code :: rest) = .protocolError code :=
  (if_neg hok).trans (if_neg hcp)

/-- With ERR clear the host reads the result in OUT. -/
theorem readOutcome_of_noError {s : State} (h : s.err = 0x00) : readOutcome s = some (.success s.snapshot) := by
  rw [readOutcome, State.errCode, h]
  rfl

/-- CANNOT_PROCESS carries the sub-code when CTXV holds SUB_V. -/
theorem readOutcome_of_cannotProcess {s : State} (h : s.err = 0x06) :
    readOutcome s = some (.cannotProcess (if s.subValid then some s.subcode else none)) := by
  rw [readOutcome, State.errCode, h]
  rfl

theorem subValid_of_noSubcode {s : State} (h : s.ctxv = 0x08) : s.subValid = false := by
  rw [State.subValid, h]
  decide

theorem subValid_of_subcode {s : State} (h : s.ctxv = 0x18) : s.subValid = true := by
  rw [State.subValid, h]
  decide

end Sys2Proof.Machine

namespace Sys2Proof.Claims

open Sys2Proof.Machine

theorem OutputHolds.snapshot {s : State} {q : List Byte} (h : OutputHolds s q) : s.snapshot = q :=
  snapshot_eq h.1 h.2

/-- OUT_LEN is a 16-bit register (R56). -/
theorem OutputHolds.length_lt {s : State} {q : List Byte} (h : OutputHolds s q) : q.length < 65536 :=
  h.1 ▸ s.outLen.isLt

theorem WritesOut.snapshot {s t : State} {bs : List Byte} (h : WritesOut s t bs) : t.snapshot = bs := by
  obtain ⟨hlen, hread, -⟩ := h
  exact snapshot_eq hlen.symm hread

/-! ### Both sources run the body on the payload (R72, R75) -/

theorem exec_classify_in {s : State} {q : List Byte} (h : InputIs s q) (hl : q.length ≤ 1024) :
    exec (.classify .inBuf) s = classifyBody q (afterPrologue 0x07 s) :=
  InputIs.checkedInput (s := afterPrologue 0x07 s) h hl fun p => classifyBody p (afterPrologue 0x07 s)

theorem exec_classify_out {s : State} {q : List Byte} (h : OutputHolds s q) :
    exec (.classify .outBuf) s = classifyBody q (afterPrologue 0x07 s) :=
  congrArg (classifyBody · (afterPrologue 0x07 s)) h.snapshot

/-! ### What the body does, and what the host reads after it -/

/-- The response code is the first result after the prologue, so CTXV holds RC_V alone (R26). -/
theorem setResponse_afterPrologue (op code : Byte) (cls : BitVec 4) (s : State) :
    (afterPrologue op s).setResponse code cls =
      { afterPrologue op s with rcode := code, rclass := cls.setWidth 8, ctxv := 0x08 } := by
  simp [State.setResponse, afterPrologue]

/-- With a sub-code CTXV holds RC_V and SUB_V (R26). -/
theorem setSubcode_afterPrologue (op code sub : Byte) (cls : BitVec 4) (s : State) :
    ((afterPrologue op s).setResponse code cls).setSubcode sub =
      { afterPrologue op s with rcode := code, rclass := cls.setWidth 8, subcode := sub, ctxv := 0x18 } := by
  simp [setResponse_afterPrologue, State.setSubcode]

/-- Each line of `ClassifyEffect` is one of the equations of the body. -/
theorem classifyEffect_of_classifyBody {q : List Byte} {s t : State} (hq : q.length < 65536)
    (h : classifyBody q (afterPrologue 0x07 s) = .next t) : ClassifyEffect q s t := by
  refine ⟨?emptyPayload, ?success, ?noSubcode, ?deviceBusy, ?subcode, ?protocolError⟩
  case emptyPayload =>
    rintro rfl
    cases h
    rfl
  case success =>
    rintro rest rfl
    rw [classifyBody_success, setResponse_afterPrologue] at h
    cases h
    exact ⟨writesOut_setOut (Nat.lt_of_succ_lt hq) rfl, rfl⟩
  case noSubcode =>
    rintro rfl
    rw [classifyBody_noSubcode, setResponse_afterPrologue] at h
    cases h
    rfl
  case deviceBusy =>
    rintro rest rfl
    rw [classifyBody_deviceBusy, setSubcode_afterPrologue] at h
    cases h
    rfl
  case subcode =>
    rintro sub rest hsub rfl
    rw [classifyBody_subcode _ hsub, setSubcode_afterPrologue] at h
    cases h
    rfl
  case protocolError =>
    rintro code rest hok hcp rfl
    rw [classifyBody_protocolError _ hok hcp, setResponse_afterPrologue] at h
    cases h
    rfl

/-- Branch by branch, the host reads the outcome the contract gives. -/
theorem readOutcome_of_classifyBody {q : List Byte} {s t : State} (hq : q.length < 65536)
    (h : classifyBody q (afterPrologue 0x07 s) = .next t) : readOutcome t = some (classify q) := by
  rcases classifyBody_next h with
    ⟨rfl, rfl⟩ | ⟨rest, rfl, rfl⟩ | ⟨rfl, rfl⟩ | ⟨rest, rfl, rfl⟩ | ⟨sub, rest, hsub, rfl, rfl⟩ |
    ⟨code, rest, hok, hcp, rfl, rfl⟩
  · rfl
  · have hout : WritesOut s (((afterPrologue 0x07 s).setResponse 0xF0 (rclass 0xF0)).setOut rest) rest :=
      writesOut_setOut (Nat.lt_of_succ_lt hq) rfl
    rw [readOutcome_of_noError rfl, hout.snapshot]
    rfl
  · rw [setResponse_afterPrologue, readOutcome_of_cannotProcess rfl, subValid_of_noSubcode rfl]
    rfl
  · rfl
  · rw [setSubcode_afterPrologue, readOutcome_of_cannotProcess rfl, subValid_of_subcode rfl, classify_subcode hsub]
    rfl
  · rw [classify_protocolError hok hcp]
    rfl

/-- CLASSIFY of a payload completes, with the effect of R153 and the outcome of R152. -/
theorem classifyBody_reports {q : List Byte} (s : State) (hq : q.length < 65536) :
    ∃ t, classifyBody q (afterPrologue 0x07 s) = .next t ∧ ClassifyEffect q s t ∧
      readOutcome t = some (classify q) := by
  obtain ⟨t, ht⟩ := classifyBody_completes q (afterPrologue 0x07 s)
  exact ⟨t, ht, classifyEffect_of_classifyBody hq ht, readOutcome_of_classifyBody hq ht⟩

theorem exec_classify_in_reports {s : State} {q : List Byte} (h : InputIs s q) (hl : q.length ≤ 1024) :
    ∃ t, exec (.classify .inBuf) s = .next t ∧ ClassifyEffect q s t ∧ readOutcome t = some (classify q) := by
  rw [exec_classify_in h hl]
  exact classifyBody_reports s (Nat.lt_of_le_of_lt hl (by decide))

theorem exec_classify_out_reports {s : State} {q : List Byte} (h : OutputHolds s q) :
    ∃ t, exec (.classify .outBuf) s = .next t ∧ ClassifyEffect q s t ∧ readOutcome t = some (classify q) := by
  rw [exec_classify_out h]
  exact classifyBody_reports s h.length_lt

/-! ### The obligations -/

/-- Settles O39: the payload passes the length check, is read whole, and the body ends in one of its branches. -/
theorem classifyInReportsTheOutcome : Obligations.ClassifyInReportsTheOutcome := by
  refine ⟨fun imm hsrc => ?_, fun s q hl hin => ?_,
    fun _ hl => exec_illegalLength_afterPrologue (i := .classify .inBuf) rfl hl⟩
  · rw [decode_classify, srcField_of_clear hsrc]
  · obtain ⟨t, ht, heffect, -⟩ := exec_classify_in_reports hin hl
    exact ⟨t, ht, heffect⟩

/-- Settles O40: the snapshot is the payload OUT holds, and the body runs on it as for IN. -/
theorem classifyOutUsesThePreviousOutput : Obligations.ClassifyOutUsesThePreviousOutput := by
  refine ⟨fun imm hsrc => ?_, fun s q hout => ?_⟩
  · rw [decode_classify, srcField_of_set hsrc]
  · obtain ⟨t, ht, heffect, -⟩ := exec_classify_out_reports hout
    exact ⟨t, ht, heffect⟩

/-- Settles O41: for both sources the body runs on the payload, and the host reads the contract's outcome after it. -/
theorem classifyRefinesItsContract : Obligations.ClassifyRefinesItsContract := by
  refine ⟨fun s q hl hin => ?_, fun s q hout => ?_⟩
  · obtain ⟨t, ht, -, houtcome⟩ := exec_classify_in_reports hin hl
    exact ⟨t, ht, houtcome⟩
  · obtain ⟨t, ht, -, houtcome⟩ := exec_classify_out_reports hout
    exact ⟨t, ht, houtcome⟩

/-- Settles O38: the eight codes by lookup, and every other code is in no row of the catalog. -/
theorem responseClassTable : Obligations.ResponseClassTable := by
  refine ⟨rfl, rfl, rfl, rfl, rfl, rfl, rfl, rfl, fun code hF0 hF2 hF3 hF4 hF5 hF6 hF8 hFA => ?_⟩
  refine classIn_eq_noClass ?_
  simp only [catalog, List.forall_mem_cons]
  exact ⟨hF0.symm, hF2.symm, hF3.symm, hF4.symm, hF5.symm, hF6.symm, hF8.symm, hFA.symm, List.forall_mem_nil _⟩

end Sys2Proof.Claims
end

section
/-!
PROOFS. The statements about errors (`60_exceptions.md`): the row of R162 that ERR falls in after each command, and what
a command that raises leaves alone (R160). The first goes by `ErrIn`, body by body; the second puts together `BodyOf`
(OUT and the input) and `Ending` (the sequence state).
-/

namespace Sys2Proof.Machine

/-! ### The row of a command (R162) -/

/-- ERR holds one of the codes of `row` (R25, R162). -/
def ErrIn (row : List (BitVec 4)) (t : State) : Prop := ∃ c ∈ row, t.err = c.setWidth 8

theorem ErrIn.mono {row row' : List (BitVec 4)} {t : State} (h : ErrIn row t) (hsub : row ⊆ row') : ErrIn row' t := by
  obtain ⟨c, hc, ht⟩ := h
  exact ⟨c, hsub hc, ht⟩

theorem errIn_setErr {row : List (BitVec 4)} {e : ErrCode} (h : e.code ∈ row) (s : State) : ErrIn row (s.setErr e) :=
  ⟨e.code, h, rfl⟩

/-- Every row lists 0x0 first, the code of a command that raises nothing. -/
theorem errIn_of_noError {row : List (BitVec 4)} {t : State} (h : t.err = 0x00) : ErrIn (0x0 :: row) t :=
  ⟨0x0, List.mem_cons_self, h⟩

/-- A command that checks IN_LEN and reads IN adds ILLEGAL_LENGTH to the errors of its body (R77). -/
theorem checkedInput_errIn {row : List (BitVec 4)} {body : List Byte → Result} {s1 t : State} (hrow : 0xD ∈ row)
    (hbody : ∀ p, body p = .next t → ErrIn row t)
    (h : checkInputLength s1 (consumeInput s1 body) = .next t) : ErrIn row t := by
  rcases checkInputLength_next h with ⟨-, rfl⟩ | ⟨-, h⟩
  · exact errIn_setErr hrow _
  · obtain ⟨p, -, hp⟩ := consumeInput_next h
    exact hbody p hp

theorem packWith_errIn {build : List Byte → List Byte} {sa op : Byte} {s t : State}
    (h : packWith build sa (beginCommand op s) = .next t) : ErrIn [0x0, 0xD, 0xA] t := by
  rcases packWith_next h with ⟨-, rfl⟩ | ⟨-, -, rfl⟩ | ⟨-, p, -, rfl⟩
  · exact errIn_setErr (by decide) _
  · exact errIn_setErr (by decide) _
  · exact errIn_of_noError rfl

theorem unpackBody_errIn {f : List Byte} {op : Byte} {s t : State}
    (h : unpackBody f (beginCommand op s) = .next t) : ErrIn [0x0, 0x2, 0x3] t := by
  rcases unpackBody_next h with ⟨-, rfl⟩ | ⟨-, -, rfl⟩ | ⟨-, -, rfl⟩
  · exact errIn_setErr (by decide) _
  · exact errIn_setErr (by decide) _
  · exact errIn_of_noError rfl

theorem classifyBody_errIn {q : List Byte} {op : Byte} {s t : State}
    (h : classifyBody q (beginCommand op s) = .next t) : ErrIn [0x0, 0x4, 0x5, 0x6, 0x7] t := by
  rcases classifyBody_next h with
    ⟨-, rfl⟩ | ⟨rest, -, rfl⟩ | ⟨-, rfl⟩ | ⟨rest, -, rfl⟩ | ⟨sub, rest, -, -, rfl⟩ | ⟨code, rest, -, -, -, rfl⟩
  case inr.inl => exact errIn_of_noError rfl
  all_goals exact errIn_setErr (by decide) _

/-- Each ending of a command is an error of its row or leaves the prologue's ERR = 0. -/
theorem exec_errIn {i : Instr} {s t : State} (h : exec i s = .next t) : ErrIn (possibleErrors i) t := by
  cases i with
  | cksum | cksumb | stuff =>
    refine checkedInput_errIn (by decide) (fun p hp => ?_) h
    cases hp
    exact errIn_of_noError rfl
  | pack sa => exact packWith_errIn h
  | packs sa => exact packWith_errIn h
  | unpack =>
    rcases execUnpack_next h with ⟨-, rfl⟩ | ⟨-, rfl⟩ | ⟨-, -, f, -, h⟩
    · exact errIn_setErr (by decide) _
    · exact errIn_setErr (by decide) _
    · exact (unpackBody_errIn h).mono (by decide)
  | classify src =>
    cases src with
    | inBuf => exact checkedInput_errIn (by decide) (fun _ hq => (classifyBody_errIn hq).mono (by decide)) h
    | outBuf => exact classifyBody_errIn h
  | seqNext =>
    rw [exec, execSeqNext_eq] at h
    cases h
    exact errIn_of_noError rfl
  | seqRetry =>
    rcases execSeqRetry_next h with ⟨-, rfl⟩ | ⟨-, rfl⟩
    · exact errIn_of_noError rfl
    · exact errIn_setErr (by decide) _

/-! ### What an error leaves alone (R160) -/

/-- The one ending that changes the sequence state, that of SEQ_NEXT, raises nothing. -/
theorem Ending.seqState_of_error {op : Byte} {s t : State} (h : Ending op s t) (herr : t.err ≠ 0x00) :
    t.seqaddr = s.seqaddr ∧ t.lastseq = s.lastseq ∧ t.seqstat = s.seqstat := by
  cases h with
  | sequence hop bs => exact absurd rfl herr
  | _ => exact ⟨rfl, rfl, rfl⟩

/-- The sequence that a command with an error wrote to OUT is the empty one (R35, R160). -/
theorem BodyOf.noOutput_of_error {op : Byte} {s t : State} (h : BodyOf op s t) (herr : t.err ≠ 0x00) :
    t.outLen = 0x0000 ∧ t.outBuf = s.outBuf := by
  obtain ⟨bs, -, hbuf, hlen, hnil⟩ := h.out
  rw [hnil herr] at hbuf hlen
  exact ⟨hlen, by rw [hbuf, writeSeq_nil]⟩

end Sys2Proof.Machine

/-! ### The obligations -/

namespace Sys2Proof.Claims

open Sys2Proof.Machine

/-- Settles O43, command by command in `exec_errIn`. -/
theorem commandsRaiseOnlyTheirErrors : Obligations.CommandsRaiseOnlyTheirErrors :=
  fun _ _ _ h => exec_errIn h

/-- Settles O46: no command touches IMM, IN or IN_LEN, and one that raises has written no sequence to OUT and is not
SEQ_NEXT. -/
theorem errorsLeaveNoOutput : Obligations.ErrorsLeaveNoOutput := by
  intro i s t h herr
  have body := exec_bodyOf h
  obtain ⟨hlen, hout⟩ := body.noOutput_of_error herr
  obtain ⟨haddr, hlast, hstat⟩ := (exec_ending h).seqState_of_error herr
  exact ⟨hlen, fun a => by rw [hout], haddr, hlast, hstat, body.imm, body.inBuf, body.inLen⟩

end Sys2Proof.Claims
end

section
/-!
PROOFS. The statements about reset (`70_reset_and_hazards.md`): the state after it (R180, R181), and that it meets both
invariants. `inv_resetEvent` and `errorContext_resetEvent` give the invariants after a RESET event; the state right after
reset differs from that one in the model's counters alone, which no invariant reads.
-/

namespace Sys2Proof.Machine

/-- `Inv` does not depend on the two counters. -/
theorem Inv.counters {s : State} (h : Inv s) (resets epoch : Nat) :
    Inv { s with resets := resets, epoch := epoch } :=
  ⟨h.inWf, h.outWf, h.outLenBound, h.outWritten, h.errReserved, h.errProduced, h.ctxvReserved, h.rclassRange,
    h.seqstatReserved, h.lastseqUnissued⟩

/-- `ErrorContext` does not depend on the two counters. -/
theorem ErrorContext.counters {s : State} (h : ErrorContext s) (resets epoch : Nat) :
    ErrorContext { s with resets := resets, epoch := epoch } :=
  ⟨h.crcClear, h.rcvClear, h.headerClear, h.responseClear, h.subcodeClear, h.noOutput, h.noError, h.frameTooShort,
    h.invalidFraming, h.checksumMismatch, h.emptyPayload, h.deviceBusy, h.cannotProcess, h.protocolError,
    h.otherErrors⟩

/-- A RESET event at reset moves the counters and nothing else (R180). -/
theorem reset_eq_resetEvent : State.reset = { resetEvent State.reset with resets := 0, epoch := 0 } := rfl

theorem inv_reset : Inv State.reset := by
  rw [reset_eq_resetEvent]
  exact (inv_resetEvent State.reset).counters 0 0

theorem errorContext_reset : ErrorContext State.reset := by
  rw [reset_eq_resetEvent]
  exact (errorContext_resetEvent State.reset).counters 0 0

end Sys2Proof.Machine

/-! ### The obligations -/

namespace Sys2Proof.Claims

open Sys2Proof.Machine

/-- Settles O16: the registers are the literals of `State.reset`, and a RESET event is the access `step_reset` speaks
of. -/
theorem resetStateIsAsListed : Obligations.ResetStateIsAsListed := by
  refine ⟨?listed, fun s rest hbus => ?event⟩
  case listed =>
    exact ⟨rfl, rfl, rfl, rfl, rfl, rfl, rfl, rfl, rfl, rfl, rfl, rfl, rfl, rfl, rfl, rfl,
      fun a => ⟨Memory.read_nil a, Memory.read_nil a⟩⟩
  case event => exact step_reset hbus

/-- Settles O51, each invariant by what holds after a RESET event. -/
theorem resetMeetsTheInvariants : Obligations.ResetMeetsTheInvariants :=
  ⟨inv_reset, errorContext_reset⟩

end Sys2Proof.Claims
end
